-- ==== Sys2Proof/Word.lean ====
section
/-! DEFINITION. The widths of the block's values (00_scope.md R7 to R11, 30_encoding.md R60, R66). -/

namespace Sys2Proof

/-- A transaction word, 20 bits (30_encoding.md R60, R69). -/
abbrev TxnWord := BitVec 20

/-- A RawReading, 16 bits (00_scope.md R8); the table entries have the same width (R11). -/
abbrev RawReading := BitVec 16

/-- A KeyMask, 12 bits: bit `i` set means logical key `i` is asserted (00_scope.md R9). -/
abbrev KeyMask := BitVec 12

/-- The number of a logical key, 0 to 11 (00_scope.md R7: `NKEYS = 12`). -/
abbrev Key := Fin 12

/-- The twelve key numbers in rising order: the range of every loop `for i in 0..11` of the spec. -/
def keys : List Key := [0, 1, 2, 3, 4, 5, 6, 7, 8, 9, 10, 11]

end Sys2Proof
end

