-- ==== Sys2Proof/Config.lean ====
section
/-! DEFINITION. What an implementation fixes: the two lookup ROMs (00_scope.md R11, 10_state.md R27), the
transport's bus parameters (00_scope.md R14), and the free values. The device's tables are OPEN (92 D10): their
entries are opaque constants, so a claim about the device's tables holds whatever they contain. -/

namespace Sys2Proof

/-- The two lookup tables (00_scope.md R11), fixed read-only configuration and no part of the state
(10_state.md R27, 70_reset_and_hazards.md R242). -/
structure Tables where
  /-- `ONEHOT_MAP[k]`: what the one-hot raw code `1 << k` is remapped to. -/
  onehotMap : Key → BitVec 16
  /-- `KEYVALS[i]`: the controller bit mask of logical key `i`. -/
  keyvals : Key → BitVec 16

/-- The constraints (a), (b) and (c) of 00_scope.md R12, which every model configuration satisfies. -/
abbrev Tables.MeetsR12 (t : Tables) : Prop :=
  t.onehotMap 2 = 0x0200#16 ∧ t.keyvals 1 &&& 0x0200#16 ≠ 0 ∧
    ∀ j : Key, j ≠ 1 → t.keyvals j &&& 0x0200#16 = 0

/-- The premise `WF_KEYVALS` of 00_scope.md R13: a claim may take it, the model never assumes it. -/
abbrev Tables.WfKeyvals (t : Tables) : Prop :=
  (∀ i : Key, t.keyvals i ≠ 0) ∧ ∀ i j : Key, i ≠ j → t.keyvals i &&& t.keyvals j = 0

/-- The premise `WF_ONEHOT` of 00_scope.md R13: a claim may take it, the model never assumes it. -/
abbrev Tables.WfOnehot (t : Tables) : Prop :=
  ∀ k : Key, ∃ i : Key, t.onehotMap k &&& t.keyvals i ≠ 0 ∧
    ∀ j : Key, t.onehotMap k &&& t.keyvals j ≠ 0 → j = i

/-- The tables whose entries are `f` and `g` wherever 00_scope.md R12 leaves them open: entry 2 of the remap is
`0x0200`, bit 9 is set in `KEYVALS[1]` and clear in every other `KEYVALS[j]`. Every pair of tables that meets R12 is
of this form. -/
def Tables.ofFree (f g : Key → BitVec 16) : Tables where
  onehotMap k := if k = 2 then 0x0200#16 else f k
  keyvals i := if i = 1 then g i ||| 0x0200#16 else g i &&& ~~~0x0200#16

/-- Free: what the device's `ONEHOT_MAP` holds where R12 leaves it open (92 D10, 93 I2; log entry 6). -/
opaque Config.freeOnehot : Key → BitVec 16

/-- Free: what the device's `KEYVALS` holds where R12 leaves it open (92 D10, 93 I2; log entry 6). -/
opaque Config.freeKeyvals : Key → BitVec 16

/-- The device's tables: any that meet 00_scope.md R12 (log entry 6). -/
def Config.tables : Tables := Tables.ofFree Config.freeOnehot Config.freeKeyvals

/-- Free: `LOWBIT12` of the empty mask, to which 42_dispatcher.md R151 says the function is never applied
(log entry 7). -/
opaque Config.lowbitOfZero : BitVec 4

/-- `P_CTRL_BUS_ADDR`, an OPEN parameter of the transport; the block never reads it (00_scope.md R14,
log entry 15). -/
opaque Config.ctrlBusAddr : Nat

/-- `P_STATUS_REG`, an OPEN parameter of the transport; the block never reads it (00_scope.md R14,
log entry 15). -/
opaque Config.statusReg : Nat

/-- `REFCFG`, the tables of 92_eei_decisions.md D25: used only by the spec's vectors and examples, and not the
device's tables. -/
def refTables : Tables where
  onehotMap k := [0x0100#16, 0x0400#16, 0x0200#16, 0x0800#16, 0x0001#16, 0x0002#16, 0x0004#16, 0x0008#16,
    0x0010#16, 0x0020#16, 0x0040#16, 0x0080#16].getD k.val 0#16
  keyvals i := [0x0100#16, 0x0200#16, 0x0400#16, 0x0800#16, 0x0001#16, 0x0002#16, 0x0004#16, 0x0008#16,
    0x0010#16, 0x0020#16, 0x0040#16, 0x0080#16].getD i.val 0#16

end Sys2Proof
end

