-- ==== Sys2Proof/Syntax.lean ====
section
/-! DEFINITION. The transaction classes: one constructor per row of spec/opcode_table.json
(30_encoding.md R65). A class carries the one field it can read; the fields its row marks `x` are never
read (30_encoding.md R63) and are not part of the instruction (log entry 10). -/

namespace Sys2Proof

/-- A decoded transaction (30_encoding.md R65). -/
inductive Instr where
  /-- RESET (70_reset_and_hazards.md R240). -/
  | reset
  /-- TICK.REL: the line reads released (40_gate.md R101). -/
  | tickRel
  /-- TICK.PRS.OK: the line reads pressed, and the transport answers a fire's read with `data`
  (40_gate.md R104). -/
  | tickPrsOk (data : RawReading)
  /-- TICK.PRS.FAIL: pressed, and the transport reports a failure (40_gate.md R105). -/
  | tickPrsFail
  /-- TICK.PRS.BUSY: pressed, and the transport reports busy (40_gate.md R106). -/
  | tickPrsBusy
  /-- TICK.PRS.RSV: pressed, with the reserved response `0b11` (40_gate.md R107). -/
  | tickPrsRsv
  deriving DecidableEq, Repr

/-- The class samples the line as pressed: the rows TICK.PRS.* (40_gate.md R102). -/
def Instr.isPress : Instr → Bool
  | .reset => false
  | .tickRel => false
  | .tickPrsOk _ => true
  | .tickPrsFail => true
  | .tickPrsBusy => true
  | .tickPrsRsv => true

end Sys2Proof
end

