-- ==== Sys2Proof/WellFormed.lean ====
section
/-! DEFINITION. Which terms are well formed. A transaction's only operand is a 16-bit RawReading, so its type already
says all that a well-formed transaction must meet. What can be ill formed is a line of assembler source before it is
assembled (30_encoding.md R70, R71): a missing, refused or out-of-range operand. -/

namespace Sys2Proof

/-- What a source line can name: the six mnemonics of 30_encoding.md R70 and the three pseudo-transactions of R71. -/
inductive AsmOp where
  /-- `RESET`. -/
  | reset
  /-- `TICK.REL`. -/
  | tickRel
  /-- `TICK.PRS.OK <data16>`. -/
  | tickPrsOk
  /-- `TICK.PRS.FAIL`. -/
  | tickPrsFail
  /-- `TICK.PRS.BUSY`. -/
  | tickPrsBusy
  /-- `TICK.PRS.RSV`. -/
  | tickPrsRsv
  /-- `TAP <data16>`. -/
  | tap
  /-- `HOLD <n>`. -/
  | hold
  /-- `IDLE <n>`. -/
  | idle
  deriving DecidableEq, Repr

/-- A source line: what it names, and its operand if it has one. -/
structure AsmLine where
  /-- The mnemonic or pseudo-transaction. -/
  op : AsmOp
  /-- The number written after it, if any. -/
  operand : Option Nat
  deriving DecidableEq, Repr

/-- What a name's operand must be. -/
inductive OperandRule where
  /-- No operand may stand. -/
  | refused
  /-- A number in `0..0xFFFF` must stand. -/
  | data16
  /-- A number must stand. -/
  | repeatCount
  deriving DecidableEq, Repr

/-- The operand each name takes (30_encoding.md R70, R71). -/
def AsmOp.operandRule : AsmOp → OperandRule
  | .reset => .refused
  | .tickRel => .refused
  | .tickPrsOk => .data16
  | .tickPrsFail => .refused
  | .tickPrsBusy => .refused
  | .tickPrsRsv => .refused
  | .tap => .data16
  | .hold => .repeatCount
  | .idle => .repeatCount

/-- Why a source line is refused (30_encoding.md R70). -/
inductive AsmError where
  /-- The first word of the line is no mnemonic and no pseudo-transaction. -/
  | unknownMnemonic
  /-- The operand is no decimal number and no `0x` hexadecimal number. -/
  | badNumber
  /-- The operand that is required is missing. -/
  | missingOperand
  /-- An operand stands where it is refused, or more than one stands. -/
  | unexpectedOperand
  /-- `<data16>` is above `0xFFFF`. -/
  | outOfRange
  deriving DecidableEq, Repr

/-- The check of a source line: `none` if it is well formed, else why it is refused (30_encoding.md R70). -/
def AsmLine.refusal (l : AsmLine) : Option AsmError :=
  match l.op.operandRule, l.operand with
  | .refused, none => none
  | .refused, some _ => some .unexpectedOperand
  | .data16, none => some .missingOperand
  | .data16, some n => if n < 0x10000 then none else some .outOfRange
  | .repeatCount, none => some .missingOperand
  | .repeatCount, some _ => none

/-- A source line the assembler accepts. -/
abbrev AsmLine.WellFormed (l : AsmLine) : Prop := l.refusal = none

end Sys2Proof
end

