-- ==== Sys2Proof/Decode.lean ====
section
/-! DEFINITION. The transaction word's fields (30_encoding.md R60), the total decoder (R65), the opcode table's rows
as masks and matches, and the encoder with the canonical words (R72). No word is illegal, so the decoder refuses
none; a number that is no 20-bit word is refused by `decodeTableWord` (R69). -/

namespace Sys2Proof

/-- `RST = w[19]` (30_encoding.md R60). -/
def txnRst (w : TxnWord) : Bool := w.getLsbD 19

/-- `LVL = w[18]`: true is high and released, false is low and pressed (30_encoding.md R60, R61). -/
def txnLvl (w : TxnWord) : Bool := w.getLsbD 18

/-- `RSP = w[17:16]` (30_encoding.md R60). -/
def txnRsp (w : TxnWord) : BitVec 2 := w.extractLsb' 16 2

/-- `DATA = w[15:0]` (30_encoding.md R60), neither extended, scaled nor shifted (R64). -/
def txnData (w : TxnWord) : RawReading := w.extractLsb' 0 16

/-- The class of a pressed word, by its `RSP` (30_encoding.md R62, R65). -/
def decodePress (rsp : BitVec 2) (data : RawReading) : Instr :=
  if rsp = 0b00#2 then .tickPrsOk data
  else if rsp = 0b01#2 then .tickPrsFail
  else if rsp = 0b10#2 then .tickPrsBusy
  else .tickPrsRsv

/-- The total decoder: `RST` first, then `LVL`, then `RSP` (30_encoding.md R65). -/
def decode (w : TxnWord) : Instr :=
  if txnRst w then .reset
  else if txnLvl w then .tickRel
  else decodePress (txnRsp w) (txnData w)

/-- A row of the opcode table: `(w & mask) = pattern` selects the class (30_encoding.md R65; the spec calls
`pattern` "match"). -/
structure OpcodeRow where
  /-- The row's mnemonic. -/
  mnemonic : String
  /-- The row's "match". -/
  pattern : TxnWord
  /-- The row's mask. -/
  mask : TxnWord
  deriving DecidableEq, Repr

/-- The row of an instruction (30_encoding.md R65, spec/opcode_table.json). -/
def rowOf : Instr → OpcodeRow
  | .reset => ⟨"RESET", 0x80000#20, 0x80000#20⟩
  | .tickRel => ⟨"TICK.REL", 0x40000#20, 0xC0000#20⟩
  | .tickPrsOk _ => ⟨"TICK.PRS.OK", 0x00000#20, 0xF0000#20⟩
  | .tickPrsFail => ⟨"TICK.PRS.FAIL", 0x10000#20, 0xF0000#20⟩
  | .tickPrsBusy => ⟨"TICK.PRS.BUSY", 0x20000#20, 0xF0000#20⟩
  | .tickPrsRsv => ⟨"TICK.PRS.RSV", 0x30000#20, 0xF0000#20⟩

/-- The opcode table, in the order of 30_encoding.md R65. -/
def opcodeRows : List OpcodeRow :=
  [rowOf .reset, rowOf .tickRel, rowOf (.tickPrsOk 0), rowOf .tickPrsFail, rowOf .tickPrsBusy, rowOf .tickPrsRsv]

/-- The bits of a word that say which instruction it is: the row's mask, and for TICK.PRS.OK the `DATA` bits too
(30_encoding.md R65: `d` is a `DATA` bit, `x` a bit the class does not read). -/
def readMask : Instr → TxnWord
  | .reset => 0x80000#20
  | .tickRel => 0xC0000#20
  | .tickPrsOk _ => 0xFFFFF#20
  | .tickPrsFail => 0xF0000#20
  | .tickPrsBusy => 0xF0000#20
  | .tickPrsRsv => 0xF0000#20

/-- The canonical word of an instruction: every bit the class does not read is 0 (30_encoding.md R72). -/
def encode : Instr → TxnWord
  | .reset => 0x80000#20
  | .tickRel => 0x40000#20
  | .tickPrsOk data => 0x00000#20 ||| data.setWidth 20
  | .tickPrsFail => 0x10000#20
  | .tickPrsBusy => 0x20000#20
  | .tickPrsRsv => 0x30000#20

/-- What the decoder reads from the number `w`, bit 0 least significant. Every transaction word is exactly 20 bits
(30_encoding.md R69): a larger number is no word and is refused (log entry 9). -/
def decodeTableWord (_nbits w : Nat) : Option Instr :=
  if w < 0x100000 then some (decode (BitVec.ofNat 20 w)) else none

end Sys2Proof
end

