-- ==== Sys2Proof/Machine/State.lean ====
section
/-! DEFINITION. The output record (30_encoding.md R66), the block's state (10_state.md R20, R22), its reset value
(R30), and why a step can stop. -/

namespace Sys2Proof.Machine

/-- The `KIND` field of the output record (30_encoding.md R66). The encoding `0b11` has no constructor: the block
never produces it (R67, log entry 12). -/
inductive Kind where
  /-- `0b00`: no event. -/
  | none
  /-- `0b01`: a single-key event. -/
  | single
  /-- `0b10`: a chord event. -/
  | chord
  deriving DecidableEq, Repr

/-- The output record of a transaction (30_encoding.md R66). -/
structure Output where
  /-- `RD_REQ`, bit 23: the gate fired and the block issued its one bus read. -/
  rdReq : Bool
  /-- `ERR`, bit 22: the read failed. -/
  err : Bool
  /-- `KIND`, bits 21:20. -/
  kind : Kind
  /-- `INDEX`, bits 19:16. -/
  index : BitVec 4
  /-- `COUNT`, bits 15:12. -/
  count : BitVec 4
  /-- `MASK`, bits 11:0. -/
  mask : KeyMask
  deriving DecidableEq, Repr

/-- The values of the model-only mark `FAULT` (10_state.md R22). -/
inductive FaultMark where
  /-- No fault has happened. -/
  | none
  /-- The reserved response was read (60_exceptions.md R203). -/
  | illegalResponse
  deriving DecidableEq, Repr

/-- The machine's state. `ready` and `fault` are all the state the spec gives the block; `pending` and `out` are the
model's own view of the block's input and output ports. -/
structure State where
  /-- `READY`: true is ARMED, false is DISARMED (10_state.md R20). -/
  ready : Bool
  /-- `FAULT` (10_state.md R22). -/
  fault : FaultMark
  /-- The transactions the host issues that the block has not taken yet, oldest first (10_state.md R24; the model's
  own field, log entry 1). -/
  pending : List TxnWord
  /-- What the output port shows of the step just taken: the record of a transaction, or nothing where the last step
  took none (30_encoding.md R66, R68; the model's own field, read by no step, log entry 3). -/
  out : Option Output
  deriving DecidableEq, Repr

/-- The state after power-on (10_state.md R30, 70_reset_and_hazards.md R241): `READY = 0`, `FAULT = none`; no
transaction has been issued (log entry 1) and the port shows none (log entry 3). -/
def State.reset : State where
  ready := false
  fault := .none
  pending := []
  out := none

/-- Why a step stops with a fault. -/
inductive Fault where
  /-- Raised by TICK.PRS.RSV taken while `READY = 1` (40_gate.md R107, 60_exceptions.md R203). `left` is the state the
  fault leaves: `FAULT` set and `READY` as it was. Safe: the spec itself ends the step so, and admits no value for the
  reserved response (93 I3). -/
  | illegalResponse (left : State)
  /-- Raised by every step and meaning of a machine whose `FAULT` is set: it has no step (10_state.md R22). Safe: the
  spec gives such a machine no behaviour (log entry 5). -/
  | stuck
  deriving DecidableEq, Repr

/-- Why an instruction has no meaning. -/
inductive Refusal where
  /-- Raised by the dispatcher for an instruction without a meaning; every instruction of this machine has one, so no
  arm raises it. Safe. -/
  | notModelled (mnemonic : String)
  deriving DecidableEq, Repr

end Sys2Proof.Machine
end

