-- ==== Sys2Proof/Machine/Dispatcher.lean ====
section
/-! DEFINITION. The popcount dispatcher (42_dispatcher.md): `POPCOUNT12`, `LOWBIT12` and `DISPATCH`. -/

namespace Sys2Proof.Machine

/-- `POPCOUNT12(m)`: the number of set bits, at most 12, so that 4 bits hold it exactly (42_dispatcher.md R150). -/
def popcount12 (m : KeyMask) : BitVec 4 :=
  keys.foldl (fun c i => if m.getLsbD i.val then c + 1#4 else c) 0#4

/-- The loop of `LOWBIT12` over the key numbers `ks`. -/
def lowbitAmong (m : KeyMask) : List Key → BitVec 4
  | [] => Config.lowbitOfZero
  | i :: is => if m.getLsbD i.val then BitVec.ofNat 4 i.val else lowbitAmong m is

/-- `LOWBIT12(m)`: the number of the lowest set bit (42_dispatcher.md R151). It is applied only to masks with one bit
set; at the empty mask it is free (log entry 7). -/
def lowbit12 (m : KeyMask) : BitVec 4 := lowbitAmong m keys

/-- What `DISPATCH` returns: `(kind, mask, count, index)` (00_scope.md R17). -/
structure Event where
  /-- SINGLE or CHORD. -/
  kind : Kind
  /-- The KeyMask. -/
  mask : KeyMask
  /-- Its popcount. -/
  count : BitVec 4
  /-- The number of the one set key of a SINGLE, 0 for a CHORD. -/
  index : BitVec 4
  deriving DecidableEq, Repr

/-- `DISPATCH(m)`: SINGLE if one bit is set, else CHORD (42_dispatcher.md R152). -/
def dispatch (m : KeyMask) : Event :=
  if popcount12 m = 1#4 then ⟨.single, m, 1#4, lowbit12 m⟩ else ⟨.chord, m, popcount12 m, 0#4⟩

end Sys2Proof.Machine
end

