-- ==== Sys2Proof/Machine/Ops.lean ====
section
/-! DEFINITION. The named operations over the state: the updates of its fields, completing a transaction with its
output record, the fault (60_exceptions.md R203), the stop of a faulted machine (10_state.md R22), taking the host's
next transaction, waiting for one, and the output record's 24 bits and consumers (30_encoding.md R66). -/

namespace Sys2Proof.Machine

/-- `s.READY <- b` (00_scope.md R16). -/
def State.setReady (s : State) (b : Bool) : State := { s with ready := b }

/-- `s.FAULT <- m` (10_state.md R22). -/
def State.setFault (s : State) (m : FaultMark) : State := { s with fault := m }

/-- The transactions still to be taken. -/
def State.setPending (s : State) (ws : List TxnWord) : State := { s with pending := ws }

/-- What the output port shows. -/
def State.setOut (s : State) (o : Option Output) : State := { s with out := o }

/-- The record `o = 0x000000`: every field that no rule of the step sets is 0 (30_encoding.md R67). -/
def Output.zero : Output where
  rdReq := false
  err := false
  kind := .none
  index := 0
  count := 0
  mask := 0

/-- The transaction ends in state `s` with output record `o`: the outcome `Next(s, o)` of 40_gate.md R108. -/
def complete (s : State) (o : Output) : Host.Outcome State Fault Refusal :=
  .next (s.setOut (some o))

/-- The state `raise IllegalResponse()` leaves: `FAULT` set, `READY` as it was, no output record (60_exceptions.md
R203, R207). -/
def faultedState (s : State) : State := (s.setFault .illegalResponse).setOut none

/-- `raise IllegalResponse()` (60_exceptions.md R203): the outcome `Fault(IllegalResponse)`, with the state it leaves
(log entry 4). -/
def raiseIllegalResponse (s : State) : Host.Outcome State Fault Refusal :=
  .fault (.illegalResponse (faultedState s))

/-- `if s.FAULT != none: no step` (40_gate.md R108, 10_state.md R22): the step `k` is taken only in a machine that has
not faulted (log entry 5). -/
def unlessFaulted (s : State) (k : Host.Outcome State Fault Refusal) : Host.Outcome State Fault Refusal :=
  match s.fault with
  | .none => k
  | .illegalResponse => .fault .stuck

/-- Takes the host's next transaction, decoded, and the state without it (10_state.md R24, 20_memory.md R49); nothing
if the host has issued none. -/
def fetch (s : State) : Option (Instr × State) :=
  match s.pending with
  | [] => none
  | w :: rest => some (decode w, s.setPending rest)

/-- The block waits for the host's next transaction (70_reset_and_hazards.md R241): `READY` holds its value
(60_exceptions.md R214) and no record is presented (30_encoding.md R68) (log entry 2). -/
def waitForTransaction (s : State) : Host.Outcome State Fault Refusal :=
  unlessFaulted s (.next (s.setOut none))

/-- The two bits of `KIND` (30_encoding.md R66). -/
def Kind.bits : Kind → BitVec 2
  | .none => 0b00#2
  | .single => 0b01#2
  | .chord => 0b10#2

/-- The kind that two bits encode; `0b11` encodes none (30_encoding.md R66, R67; log entry 12). -/
def Kind.ofBits (b : BitVec 2) : Option Kind :=
  if b = 0b00#2 then some .none
  else if b = 0b01#2 then some .single
  else if b = 0b10#2 then some .chord
  else Option.none

/-- The 24 bits of an output record: `RD_REQ[23] ERR[22] KIND[21:20] INDEX[19:16] COUNT[15:12] MASK[11:0]`
(30_encoding.md R66). -/
def Output.pack (o : Output) : BitVec 24 :=
  BitVec.ofBool o.rdReq ++ BitVec.ofBool o.err ++ o.kind.bits ++ o.index ++ o.count ++ o.mask

/-- The record that 24 bits stand for; none where `KIND = 0b11` (30_encoding.md R66, R67; 93 I8). -/
def Output.unpack (w : BitVec 24) : Option Output :=
  (Kind.ofBits (w.extractLsb' 20 2)).map fun k =>
    { rdReq := w.getLsbD 23
      err := w.getLsbD 22
      kind := k
      index := w.extractLsb' 16 4
      count := w.extractLsb' 12 4
      mask := w.extractLsb' 0 12 }

/-- A use of an external collaborator (00_scope.md R4, 30_encoding.md R66). What the collaborator does with it is
outside the block and nothing comes back (60_exceptions.md R208, R215). -/
inductive Call where
  /-- The bus transport performs the block's one read (20_memory.md R42). -/
  | busRead
  /-- The logging sink's `error(message)`; the text is not specified (93 I12). -/
  | logError
  /-- The key-code resolver's `resolve(MASK)`; `index` names the same key (42_dispatcher.md R153). -/
  | resolve (mask : KeyMask) (index : BitVec 4)
  /-- The chord handler's `on_multi_key(MASK, COUNT)` (42_dispatcher.md R154). -/
  | onMultiKey (mask : KeyMask) (count : BitVec 4)
  deriving DecidableEq, Repr

/-- The event a record presents to the resolver or to the chord handler, if any (30_encoding.md R66). -/
def Output.event (o : Output) : List Call :=
  match o.kind with
  | .none => []
  | .single => [.resolve o.mask o.index]
  | .chord => [.onMultiKey o.mask o.count]

/-- The uses of the external collaborators that a record stands for (30_encoding.md R66; log entry 14). -/
def Output.calls (o : Output) : List Call :=
  (if o.rdReq then [.busRead] else []) ++ (if o.err then [.logError] else []) ++ o.event

end Sys2Proof.Machine
end

