-- ==== Sys2Proof/Machine/Flags.lean ====
section
/-! DEFINITION. The one flag of the block, `READY`, and the three ways it is written (10_state.md R20). No
transaction writes a flag as a side effect of anything else (10_state.md R25). -/

namespace Sys2Proof.Machine

/-- `READY <- 1`: the gate becomes ARMED (40_gate.md R101). -/
def State.arm (s : State) : State := s.setReady true

/-- `READY <- 0`: the gate becomes DISARMED (40_gate.md R103, 70_reset_and_hazards.md R240). -/
def State.disarm (s : State) : State := s.setReady false

end Sys2Proof.Machine
end

