-- ==== Sys2Proof/Machine/Operands.lean ====
section
/-! DEFINITION. The operands of a transaction: the transport's answer to the block's one read (20_memory.md R42,
30_encoding.md R62) and the byte order of the RawReading (20_memory.md R44). -/

namespace Sys2Proof.Machine

/-- The transport's answer to a fire's read (20_memory.md R42). -/
inductive BusAnswer where
  /-- `RSP = 0b00`: the read succeeded with this RawReading. -/
  | ok (raw : RawReading)
  /-- `RSP = 0b01`: the transport reported a failure. -/
  | fail
  /-- `RSP = 0b10`: the transport was busy and the read was skipped. -/
  | busy
  /-- `RSP = 0b11`: the reserved value, which has no meaning. -/
  | reserved
  deriving DecidableEq, Repr

/-- `BusRead()`, answered from the word's `RSP` and `DATA` fields (20_memory.md R42). -/
def busRead (w : TxnWord) : BusAnswer :=
  if txnRsp w = 0b00#2 then .ok (txnData w)
  else if txnRsp w = 0b01#2 then .fail
  else if txnRsp w = 0b10#2 then .busy
  else .reserved

/-- The answer that a TICK.PRS class carries (30_encoding.md R65); the other classes issue no read. -/
def busAnswerOf : Instr → Option BusAnswer
  | .reset => none
  | .tickRel => none
  | .tickPrsOk data => some (.ok data)
  | .tickPrsFail => some .fail
  | .tickPrsBusy => some .busy
  | .tickPrsRsv => some .reserved

/-- The RawReading made of the two bytes received, the first the less significant: `DATA` is `byte1` above `byte0`
(20_memory.md R44; log entry 8). -/
def dataOfBytes (byte0 byte1 : BitVec 8) : RawReading := byte1 ++ byte0

end Sys2Proof.Machine
end

