-- ==== Sys2Proof/Machine/Translator.lean ====
section
/-! DEFINITION. The key mask translator (41_translator.md): `REMAP`, the per-key match and `TRANSLATE`. The functions
take the tables as an argument; the block applies them to `Config.tables`. They apply no complement (R128). -/

namespace Sys2Proof.Machine

/-- The one-hot raw code of bit position `k`: `1 << k` (41_translator.md R122). -/
def oneHot (k : Key) : RawReading := 1#16 <<< k.val

/-- The loop of `REMAP` over the bit positions `ks` (41_translator.md R122). -/
def remapAmong (t : Tables) (raw : RawReading) : List Key → RawReading
  | [] => raw
  | k :: ks => if raw = oneHot k then t.onehotMap k else remapAmong t raw ks

/-- `REMAP(raw)`: a one-hot code is looked up, any other value is returned unchanged (41_translator.md R122). -/
def remap (t : Tables) (raw : RawReading) : RawReading := remapAmong t raw keys

/-- Lane `i` of the match: `(v & KEYVALS[i]) != 0` (41_translator.md R129). -/
def lane (t : Tables) (v : RawReading) (i : Key) : Bool := decide (v &&& t.keyvals i ≠ 0)

/-- A KeyMask with exactly the bits `i` for which `p i` holds. -/
def keyMaskOf (p : Key → Bool) : KeyMask :=
  keys.foldl (fun m i => if p i then m ||| 1#12 <<< i.val else m) 0#12

/-- The per-key match of `TRANSLATE`: bit `i` is lane `i` (41_translator.md R123, R129). -/
def matchKeys (t : Tables) (v : RawReading) : KeyMask := keyMaskOf (lane t v)

/-- `TRANSLATE(raw)`: the match of the remapped reading, all 16 bits of it (41_translator.md R121, R123). -/
def translateRaw (t : Tables) (raw : RawReading) : KeyMask := matchKeys t (remap t raw)

end Sys2Proof.Machine
end

