-- ==== Sys2Proof/Machine/Gate.lean ====
section
/-! DEFINITION. The press/release gate (40_gate.md): the fire, a pressed sample, and the meanings of the five TICK
classes. No time or count enters a decision (R100). -/

namespace Sys2Proof.Machine

/-- The record of a fire whose read succeeds: `RD_REQ` and the dispatched event (40_gate.md R104). -/
def okRecord (t : Tables) (raw : RawReading) : Output :=
  let e := dispatch (translateRaw t raw)
  { Output.zero with rdReq := true, kind := e.kind, mask := e.mask, count := e.count, index := e.index }

/-- The record of a fire whose read fails: `RD_REQ` and `ERR`, no event (40_gate.md R105). -/
def failRecord : Output := { Output.zero with rdReq := true, err := true }

/-- The record of a fire whose read is skipped: `RD_REQ` only, silent (40_gate.md R106). -/
def busyRecord : Output := { Output.zero with rdReq := true }

/-- `fire()` (40_gate.md R103): the read comes first, and the reserved answer raises before anything is written
(R107, 90_conflicts.md C9); every other answer disarms the gate, whatever it is (90_conflicts.md C1). -/
def fire (t : Tables) (a : BusAnswer) (s : State) : Host.Outcome State Fault Refusal :=
  match a with
  | .reserved => raiseIllegalResponse s
  | .ok raw => complete s.disarm (okRecord t raw)
  | .fail => complete s.disarm failRecord
  | .busy => complete s.disarm busyRecord

/-- A pressed sample: a fire if the gate is ARMED (40_gate.md R103), else no state change, no read and the zero record
(R102), whatever the answer field holds. -/
def press (t : Tables) (a : BusAnswer) (s : State) : Host.Outcome State Fault Refusal :=
  unlessFaulted s (if s.ready then fire t a s else complete s .zero)

/-- TICK.REL: `READY <- 1` whatever it was, the zero record (40_gate.md R101). -/
def execTickRel (s : State) : Host.Outcome State Fault Refusal :=
  unlessFaulted s (complete s.arm .zero)

/-- TICK.PRS.OK (40_gate.md R104). -/
def execTickPrsOk (data : RawReading) (s : State) : Host.Outcome State Fault Refusal :=
  press Config.tables (.ok data) s

/-- TICK.PRS.FAIL (40_gate.md R105). -/
def execTickPrsFail (s : State) : Host.Outcome State Fault Refusal :=
  press Config.tables .fail s

/-- TICK.PRS.BUSY (40_gate.md R106). -/
def execTickPrsBusy (s : State) : Host.Outcome State Fault Refusal :=
  press Config.tables .busy s

/-- TICK.PRS.RSV (40_gate.md R107). -/
def execTickPrsRsv (s : State) : Host.Outcome State Fault Refusal :=
  press Config.tables .reserved s

end Sys2Proof.Machine
end

