-- ==== Sys2Proof/Machine/Reset.lean ====
section
/-! DEFINITION. The reset transaction (70_reset_and_hazards.md R240). -/

namespace Sys2Proof.Machine

/-- RESET: `READY <- 0`, the zero record; `FAULT` is not written, and a faulted machine takes no step
(70_reset_and_hazards.md R240). -/
def execReset (s : State) : Host.Outcome State Fault Refusal :=
  unlessFaulted s (complete s.disarm .zero)

end Sys2Proof.Machine
end

