-- ==== Sys2Proof/Machine/Dispatch.lean ====
section
/-! DEFINITION. The meaning of every transaction class (30_encoding.md R65). -/

namespace Sys2Proof.Machine

/-- The meaning of an instruction: one arm per row of the opcode table. -/
def exec (i : Instr) (s : State) : Host.Outcome State Fault Refusal :=
  match i with
  | .reset => Sys2Proof.Machine.execReset s
  | .tickRel => Sys2Proof.Machine.execTickRel s
  | .tickPrsOk data => Sys2Proof.Machine.execTickPrsOk data s
  | .tickPrsFail => Sys2Proof.Machine.execTickPrsFail s
  | .tickPrsBusy => Sys2Proof.Machine.execTickPrsBusy s
  | .tickPrsRsv => Sys2Proof.Machine.execTickPrsRsv s

end Sys2Proof.Machine
end

