-- ==== Sys2Proof/Machine/Step.lean ====
section
/-! DEFINITION. One step of the block: the host's next transaction, taken whole (20_memory.md R49, 40_gate.md R108). -/

namespace Sys2Proof.Machine

/-- One step: the next transaction is taken and performed; with none issued, the block waits. -/
def step (s : State) : Host.Outcome State Fault Refusal :=
  match fetch s with
  | some (i, s') => exec i s'
  | none => waitForTransaction s

/-- `s` with the word `w` as the very next transaction the host issues, before those already issued. A number that is
no 20-bit word is no transaction, and `s` is unchanged (30_encoding.md R69; log entry 9). -/
def State.withFetchWord (s : State) (_nbits w : Nat) : State :=
  if w < 0x100000 then { s with pending := BitVec.ofNat 20 w :: s.pending } else s

end Sys2Proof.Machine
end

