-- ==== Sys2Proof/Machine/Assembler.lean ====
section
/-! DEFINITION. The assembler and disassembler of transactions (30_encoding.md R70 to R72): the pseudo-transactions'
expansions, the reading of one source line, and the text of one word. A text is a list of characters. -/

namespace Sys2Proof.Machine

/-- The transactions a name stands for, with its operand (30_encoding.md R70, R71). -/
def expansion : AsmOp → Nat → List Instr
  | .reset, _ => [.reset]
  | .tickRel, _ => [.tickRel]
  | .tickPrsOk, n => [.tickPrsOk (BitVec.ofNat 16 n)]
  | .tickPrsFail, _ => [.tickPrsFail]
  | .tickPrsBusy, _ => [.tickPrsBusy]
  | .tickPrsRsv, _ => [.tickPrsRsv]
  | .tap, n => [.tickRel, .tickPrsOk (BitVec.ofNat 16 n), .tickRel]
  | .hold, n => List.replicate n (.tickPrsOk 0)
  | .idle, n => List.replicate n .tickRel

/-- The transactions of a source line, or why it is refused (30_encoding.md R70, R71). -/
def expandLine (l : AsmLine) : Except AsmError (List Instr) :=
  match l.refusal, l.operand with
  | some e, _ => .error e
  | none, none => .ok (expansion l.op 0)
  | none, some n => .ok (expansion l.op n)

/-- The spelling of a name (30_encoding.md R70, R71). -/
def opName : AsmOp → List Char
  | .reset => ['R', 'E', 'S', 'E', 'T']
  | .tickRel => ['T', 'I', 'C', 'K', '.', 'R', 'E', 'L']
  | .tickPrsOk => ['T', 'I', 'C', 'K', '.', 'P', 'R', 'S', '.', 'O', 'K']
  | .tickPrsFail => ['T', 'I', 'C', 'K', '.', 'P', 'R', 'S', '.', 'F', 'A', 'I', 'L']
  | .tickPrsBusy => ['T', 'I', 'C', 'K', '.', 'P', 'R', 'S', '.', 'B', 'U', 'S', 'Y']
  | .tickPrsRsv => ['T', 'I', 'C', 'K', '.', 'P', 'R', 'S', '.', 'R', 'S', 'V']
  | .tap => ['T', 'A', 'P']
  | .hold => ['H', 'O', 'L', 'D']
  | .idle => ['I', 'D', 'L', 'E']

/-- Every name a line can begin with. -/
def asmOps : List AsmOp :=
  [.reset, .tickRel, .tickPrsOk, .tickPrsFail, .tickPrsBusy, .tickPrsRsv, .tap, .hold, .idle]

/-- The name that a word of the line spells, in upper case (30_encoding.md R70). -/
def readOp (word : List Char) : Option AsmOp := asmOps.find? fun op => opName op = word

/-- A space, a tab or a carriage return: what separates the words of a line (log entry 11). -/
def isSeparator (c : Char) : Bool := c = ' ' || c = '\t' || c = '\r'

/-- The words of a text; `word` holds the characters of the word begun, last first. -/
def wordsFrom : List Char → List Char → List (List Char)
  | word, [] => if word = [] then [] else [word.reverse]
  | word, c :: cs =>
    if isSeparator c then (if word = [] then wordsFrom [] cs else word.reverse :: wordsFrom [] cs)
    else wordsFrom (c :: word) cs

/-- The line without its comment, which a `;` starts (30_encoding.md R70). -/
def withoutComment (line : List Char) : List Char := line.takeWhile fun c => c ≠ ';'

/-- The value of a digit in base `base`, hexadecimal letters of either case (log entry 11). -/
def digitValue (base : Nat) (c : Char) : Option Nat :=
  let n := c.toNat
  let v := if 48 ≤ n && n ≤ 57 then n - 48
    else if 65 ≤ n && n ≤ 70 then n - 55
    else if 97 ≤ n && n ≤ 102 then n - 87
    else base
  if v < base then some v else none

/-- The number that digits of base `base` continue, after a part worth `acc`. -/
def readDigits (base acc : Nat) : List Char → Option Nat
  | [] => some acc
  | c :: cs =>
    match digitValue base c with
    | none => none
    | some d => readDigits base (acc * base + d) cs

/-- A number, decimal or `0x` hexadecimal: the notation of `<data16>` (30_encoding.md R70). DESIGN CHOICE: the `<n>` of
HOLD and IDLE, whose notation R71 leaves open, is read the same way (log entry 11). -/
def readNumber : List Char → Option Nat
  | [] => none
  | '0' :: 'x' :: c :: cs => readDigits 16 0 (c :: cs)
  | c :: cs => readDigits 10 0 (c :: cs)

/-- The transactions of one line of source, or why it is refused; a line without words holds none
(30_encoding.md R70, R71). DESIGN CHOICE: `<n>` is written as `<data16>` is (log entry 11). -/
def parseLine (line : List Char) : Except AsmError (List Instr) :=
  match wordsFrom [] (withoutComment line) with
  | [] => .ok []
  | op :: operands =>
    match readOp op with
    | none => .error .unknownMnemonic
    | some o =>
      match operands with
      | [] => expandLine ⟨o, none⟩
      | [arg] =>
        match readNumber arg with
        | none => .error .badNumber
        | some n => expandLine ⟨o, some n⟩
      | _ :: _ :: _ => .error .unexpectedOperand

/-- The canonical words of a source text, one line a list, or why its first bad line is refused (30_encoding.md R70,
R72). -/
def assemble : List (List Char) → Except AsmError (List TxnWord)
  | [] => .ok []
  | line :: lines =>
    match parseLine line with
    | .error e => .error e
    | .ok is =>
      match assemble lines with
      | .error e => .error e
      | .ok ws => .ok (is.map encode ++ ws)

/-- What a disassembler prints of a word: its class, and the raw word if it is not the canonical one
(30_encoding.md R72). -/
def disassemble (w : TxnWord) : Instr × Option TxnWord :=
  (decode w, if w = encode (decode w) then none else some w)

/-- The hexadecimal digit of a number below 16. -/
def hexDigit (d : Nat) : Char := Char.ofNat (if d < 10 then d + 48 else d + 55)

/-- The lowest `k` hexadecimal digits of `n`, the most significant first, put before `rest`. -/
def hexDigits : Nat → Nat → List Char → List Char
  | 0, _, rest => rest
  | k + 1, n, rest => hexDigits k (n / 16) (hexDigit (n % 16) :: rest)

/-- The text of a transaction (30_encoding.md R70). -/
def instrText : Instr → List Char
  | .reset => opName .reset
  | .tickRel => opName .tickRel
  | .tickPrsOk data => opName .tickPrsOk ++ ' ' :: '0' :: 'x' :: hexDigits 4 data.toNat []
  | .tickPrsFail => opName .tickPrsFail
  | .tickPrsBusy => opName .tickPrsBusy
  | .tickPrsRsv => opName .tickPrsRsv

/-- The text of a word: its class, and for a word that is not canonical the raw word in a comment (30_encoding.md
R72). -/
def wordText (w : TxnWord) : List Char :=
  instrText (decode w) ++
    (if w = encode (decode w) then [] else ' ' :: ';' :: ' ' :: '0' :: 'x' :: hexDigits 5 w.toNat [])

end Sys2Proof.Machine
end

