-- ==== Sys2Proof/Safety.lean ====
section
/-! DEFINITION. What claims about the block are stated in: the canonical output record (30_encoding.md R67), the
invariant of the state, the records of a run, the transport's duty (60_exceptions.md R215), and the step function
written flat over the word's bits (40_gate.md R108). -/

namespace Sys2Proof.Machine

/-- The number of set bits of a KeyMask, as the size of the set of their positions (00_scope.md R10). -/
def numSetBits (m : KeyMask) : Nat := (Finset.univ.filter fun i : Key => m.getLsbD i.val = true).card

/-- A record the block can produce: the fields that do not apply are 0, a SINGLE names its one key, a CHORD counts its
keys, and only a fire errs or makes an event (30_encoding.md R67; 42_dispatcher.md R152, R157). -/
def Output.Canonical (o : Output) : Prop :=
  (o.err = true → o.rdReq = true ∧ o.kind = .none) ∧
  match o.kind with
  | .none => o.index = 0 ∧ o.count = 0 ∧ o.mask = 0
  | .single => o.rdReq = true ∧ o.index.toNat < 12 ∧ o.count = 1#4 ∧ o.mask = 1#12 <<< o.index.toNat
  | .chord => o.rdReq = true ∧ o.index = 0 ∧ o.count ≠ 1#4 ∧ o.count.toNat = numSetBits o.mask

/-- The invariant of the state: the port shows a canonical record, after a fire the gate is DISARMED (40_gate.md R103),
and the fault mark stands only beside `READY = 1` and an empty port (60_exceptions.md R203). -/
def State.Inv (s : State) : Prop :=
  (∀ o, s.out = some o → o.Canonical ∧ (o.rdReq = true → s.ready = false)) ∧
  (s.fault = .illegalResponse → s.ready = true ∧ s.out = none)

/-- The transport's duty (60_exceptions.md R215) over the transactions still to come: none of them is a pressed sample
with the reserved response. -/
def State.NoReservedResponse (s : State) : Prop := ∀ w ∈ s.pending, decode w ≠ .tickPrsRsv

/-- The transaction taken in a step from `s` to `t`, with its record; nothing where the step only waited. -/
def takenIn (s t : State) : List (Instr × Output) :=
  match fetch s, t.out with
  | some (i, _), some o => [(i, o)]
  | _, _ => []

/-- The transactions completed in the first `k` steps from `s`, with their records, up to the first stop. -/
def trace : Nat → State → List (Instr × Output)
  | 0, _ => []
  | k + 1, s =>
    match step s with
    | .next t => takenIn s t ++ trace k t
    | .fault _ => []
    | .refused _ => []

/-- The number of fires in a run: records with `RD_REQ = 1` (40_gate.md R109). -/
def fires (l : List (Instr × Output)) : Nat := l.countP fun p => p.2.rdReq

/-- The transaction is TICK.PRS.OK. -/
def isPrsOk : Instr → Bool
  | .reset => false
  | .tickRel => false
  | .tickPrsOk _ => true
  | .tickPrsFail => false
  | .tickPrsBusy => false
  | .tickPrsRsv => false

/-- The 24 bits of a successful fire's record, each field shifted to its place (30_encoding.md R66). -/
def flatOkRecord (e : Event) : BitVec 24 :=
  0x800000#24 ||| (e.kind.bits.setWidth 24 <<< 20) ||| (e.index.setWidth 24 <<< 16) |||
    (e.count.setWidth 24 <<< 12) ||| e.mask.setWidth 24

/-- The step function of 40_gate.md R108 written flat over the word's bits, for an unfaulted block: the new `READY` and
the record's 24 bits, or nothing where R108 returns `Fault(IllegalResponse)`. -/
def flatStep (t : Tables) (ready : Bool) (w : TxnWord) : Option (Bool × BitVec 24) :=
  if w.getLsbD 19 = true then some (false, 0#24)
  else if w.getLsbD 18 = true then some (true, 0#24)
  else if ready = false then some (ready, 0#24)
  else if w.extractLsb' 16 2 = 0b11#2 then none
  else if w.extractLsb' 16 2 = 0b00#2 then some (false, flatOkRecord (dispatch (translateRaw t (w.extractLsb' 0 16))))
  else if w.extractLsb' 16 2 = 0b01#2 then some (false, 0xC00000#24)
  else some (false, 0x800000#24)

end Sys2Proof.Machine
end

