-- ==== Sys2Proof/Certificates/Slice0/Obligations.lean ====
section
/-! DEFINITION. The statements about the block, each from the numbered rules of spec/ that its docstring names. A
statement that speaks of `Config.tables` holds for every pair of tables that meets 00_scope.md R12, since their entries
are opaque. -/

open Sys2Proof Sys2Proof.Machine

/-! ## Encoding of transactions -/

/-- 95_test_vectors.md section 2, V-E1 to V-E12: the listed words decode to the listed classes. -/
def Obligations.SpecWordsDecodeAsListed : Prop :=
  decode 0x80000#20 = .reset ∧ decode 0xBABCD#20 = .reset ∧ decode 0xFFFFF#20 = .reset ∧
  decode 0x40000#20 = .tickRel ∧ decode 0x7FFFF#20 = .tickRel ∧
  decode 0x00000#20 = .tickPrsOk 0x0000#16 ∧ decode 0x0FFFF#20 = .tickPrsOk 0xFFFF#16 ∧
  decode 0x10000#20 = .tickPrsFail ∧ decode 0x1ABCD#20 = .tickPrsFail ∧ decode 0x20000#20 = .tickPrsBusy ∧
  decode 0x30000#20 = .tickPrsRsv ∧ decode 0x3FFFF#20 = .tickPrsRsv

/-- 30_encoding.md R65: each word has exactly one class, and a row's mask and match select it. -/
def Obligations.SixRowsPartitionTheWords : Prop :=
  ∀ w : TxnWord,
    (w &&& 0x80000#20 = 0x80000#20 ↔ decode w = .reset) ∧
    (w &&& 0xC0000#20 = 0x40000#20 ↔ decode w = .tickRel) ∧
    (w &&& 0xF0000#20 = 0x00000#20 ↔ ∃ d, decode w = .tickPrsOk d) ∧
    (w &&& 0xF0000#20 = 0x10000#20 ↔ decode w = .tickPrsFail) ∧
    (w &&& 0xF0000#20 = 0x20000#20 ↔ decode w = .tickPrsBusy) ∧
    (w &&& 0xF0000#20 = 0x30000#20 ↔ decode w = .tickPrsRsv)

/-- 30_encoding.md R65 and R72: a word decodes to `i` exactly if it agrees with the canonical word of `i` on the bits
the class reads. With `w = encode i` this is the round trip; it also says that no read bit is dropped and no unread bit
matters. -/
def Obligations.DecodeAndEncodeAgree : Prop :=
  ∀ (w : TxnWord) (i : Instr), decode w = i ↔ w &&& readMask i = encode i

/-- 30_encoding.md R63: the fields a transaction does not read have no effect on its outcome, and the assembler writes
the bits no class reads as 0. -/
def Obligations.UnreadFieldsHaveNoEffect : Prop :=
  (∀ i : Instr, encode i &&& ~~~readMask i = 0) ∧
  ∀ (s : State) (w w' : TxnWord) (rest : List TxnWord),
    (w.getLsbD 19 = true → w'.getLsbD 19 = true → step (s.setPending (w :: rest)) = step (s.setPending (w' :: rest))) ∧
    (w.getLsbD 19 = false → w'.getLsbD 19 = false → w.getLsbD 18 = true → w'.getLsbD 18 = true →
      step (s.setPending (w :: rest)) = step (s.setPending (w' :: rest))) ∧
    (w.getLsbD 19 = false → w'.getLsbD 19 = false → w.getLsbD 18 = false → w'.getLsbD 18 = false → s.ready = false →
      step (s.setPending (w :: rest)) = step (s.setPending (w' :: rest))) ∧
    (w.getLsbD 19 = false → w'.getLsbD 19 = false → w.getLsbD 18 = false → w'.getLsbD 18 = false →
      w.extractLsb' 16 2 = w'.extractLsb' 16 2 → (w.extractLsb' 16 2 = 0b01#2 ∨ w.extractLsb' 16 2 = 0b10#2) →
      step (s.setPending (w :: rest)) = step (s.setPending (w' :: rest)))

/-- 30_encoding.md R72: the canonical words, and what a disassembler prints of a word: the class, and for a word that is
not canonical a comment with the word in hexadecimal. The text is stated up to its spaces and leading zeros, which R72
leaves open; `DisassembledTextAssemblesBack` states the text exactly. -/
def Obligations.CanonicalWordsAndDisassembly : Prop :=
  encode .reset = 0x80000#20 ∧ encode .tickRel = 0x40000#20 ∧
  (∀ d : RawReading, encode (.tickPrsOk d) = d.setWidth 20) ∧
  encode .tickPrsFail = 0x10000#20 ∧ encode .tickPrsBusy = 0x20000#20 ∧ encode .tickPrsRsv = 0x30000#20 ∧
  (∀ w : TxnWord, (disassemble w).1 = decode w ∧
    ((disassemble w).2 = none ↔ w = encode (decode w)) ∧ (w ≠ encode (decode w) → (disassemble w).2 = some w) ∧
    (w = encode (decode w) → wordText w = instrText (decode w)) ∧
    (w ≠ encode (decode w) → ∃ (a b : Nat) (digits : List Char),
      wordText w = instrText (decode w) ++ List.replicate a ' ' ++ ';' :: List.replicate b ' ' ++ '0' :: 'x' :: digits ∧
        readDigits 16 0 digits = some w.toNat))

/-- 30_encoding.md R71: the pseudo-transactions' expansions. -/
def Obligations.PseudoTransactionsExpand : Prop :=
  ∀ n : Nat,
    (n < 0x10000 → expandLine ⟨.tap, some n⟩ = .ok [.tickRel, .tickPrsOk (BitVec.ofNat 16 n), .tickRel]) ∧
    expandLine ⟨.hold, some n⟩ = .ok (List.replicate n (.tickPrsOk 0)) ∧
    expandLine ⟨.idle, some n⟩ = .ok (List.replicate n .tickRel)

/-- 30_encoding.md R70: `<data16>` is required for TICK.PRS.OK, refused for the other mnemonics, and refused when out
of range. -/
def Obligations.AssemblerChecksTheOperand : Prop :=
  (∀ n : Nat, n < 0x10000 → expandLine ⟨.tickPrsOk, some n⟩ = .ok [.tickPrsOk (BitVec.ofNat 16 n)]) ∧
  (∀ n : Nat, 0x10000 ≤ n → expandLine ⟨.tickPrsOk, some n⟩ = .error .outOfRange) ∧
  expandLine ⟨.tickPrsOk, none⟩ = .error .missingOperand ∧
  (∀ p ∈ [(AsmOp.reset, Instr.reset), (.tickRel, .tickRel), (.tickPrsFail, .tickPrsFail),
      (.tickPrsBusy, .tickPrsBusy), (.tickPrsRsv, .tickPrsRsv)],
    expandLine ⟨p.1, none⟩ = .ok [p.2] ∧ ∀ n : Nat, expandLine ⟨p.1, some n⟩ = .error .unexpectedOperand)

/-- 30_encoding.md section 5: the text a disassembler prints of any word, letter for letter, and that it assembles to
that word's class. The spellings are R70's; the number of digits, their case and the separators are the model's (log
entry 11). -/
def Obligations.DisassembledTextAssemblesBack : Prop :=
  instrText .reset = "RESET".toList ∧ instrText .tickRel = "TICK.REL".toList ∧
  (∀ d : RawReading, ∃ digits : List Char, digits.length = 4 ∧
    (∀ j, j < 4 → digits[j]? = "0123456789ABCDEF".toList[(d.extractLsb' (12 - 4 * j) 4).toNat]?) ∧
    instrText (.tickPrsOk d) = "TICK.PRS.OK 0x".toList ++ digits) ∧
  instrText .tickPrsFail = "TICK.PRS.FAIL".toList ∧ instrText .tickPrsBusy = "TICK.PRS.BUSY".toList ∧
  instrText .tickPrsRsv = "TICK.PRS.RSV".toList ∧
  ∀ w : TxnWord,
    (w = encode (decode w) → wordText w = instrText (decode w)) ∧
    (w ≠ encode (decode w) → ∃ digits : List Char, digits.length = 5 ∧
      (∀ j, j < 5 → digits[j]? = "0123456789ABCDEF".toList[(w.extractLsb' (16 - 4 * j) 4).toNat]?) ∧
      wordText w = instrText (decode w) ++ " ; 0x".toList ++ digits) ∧
    parseLine (wordText w) = .ok [decode w]

/-! ## The output record -/

/-- 30_encoding.md R66: every transaction that completes produces one record, the record's fields stand at their bits,
and each field reaches its consumer. -/
def Obligations.OutputRecordLayoutAndConsumers : Prop :=
  (∀ (i : Instr) (s t : State), exec i s = .next t → ∃ o, t.out = some o) ∧
  ∀ o : Output,
    o.pack.getLsbD 23 = o.rdReq ∧ o.pack.getLsbD 22 = o.err ∧
    (o.kind = .none ↔ o.pack.extractLsb' 20 2 = 0b00#2) ∧ (o.kind = .single ↔ o.pack.extractLsb' 20 2 = 0b01#2) ∧
    (o.kind = .chord ↔ o.pack.extractLsb' 20 2 = 0b10#2) ∧
    o.pack.extractLsb' 16 4 = o.index ∧ o.pack.extractLsb' 12 4 = o.count ∧ o.pack.extractLsb' 0 12 = o.mask ∧
    (Call.busRead ∈ o.calls ↔ o.rdReq = true) ∧ (Call.logError ∈ o.calls ↔ o.err = true) ∧
    (∀ m j, Call.resolve m j ∈ o.calls ↔ o.kind = .single ∧ m = o.mask ∧ j = o.index) ∧
    (∀ m c, Call.onMultiKey m c ∈ o.calls ↔ o.kind = .chord ∧ m = o.mask ∧ c = o.count)

/-- 30_encoding.md section 4: the 24 bits and the record determine each other, and bits with `KIND = 0b11` stand for no
record (93 I8; that the reader of such bits refuses them is log entry 12). -/
def Obligations.OutputRecordRoundTrip : Prop :=
  ∀ w : BitVec 24, (∀ o : Output, Output.unpack w = some o ↔ o.pack = w) ∧
    (Output.unpack w = none ↔ w.extractLsb' 20 2 = 0b11#2)

/-- 30_encoding.md R67: every field that does not apply is 0, and `KIND = 0b11` is never produced. -/
def Obligations.OutputFieldsThatDoNotApplyAreZero : Prop :=
  ∀ (i : Instr) (s t : State) (o : Output), exec i s = .next t → t.out = some o →
    ((i.isPress = false ∨ s.ready = false) → o.pack = 0x000000#24) ∧
    (o.kind ≠ .single → o.index = 0) ∧ (o.kind = .none → o.mask = 0 ∧ o.count = 0) ∧
    (o.err = true → i = .tickPrsFail) ∧ (o.kind ≠ .none → ∃ d, i = .tickPrsOk d) ∧
    o.pack.extractLsb' 20 2 ≠ 0b11#2

/-! ## The transactions -/

/-- 70_reset_and_hazards.md R240: RESET disarms the gate from any unfaulted state; a faulted model takes no step. -/
def Obligations.ResetDisarmsTheGate : Prop :=
  (∀ w : TxnWord, w.getLsbD 19 = true → decode w = .reset) ∧
  ∀ s : State,
    (s.fault = .none → exec .reset s =
      .next { ready := false, fault := s.fault, pending := s.pending, out := some Output.zero }) ∧
    (s.fault ≠ .none → exec .reset s = .fault .stuck)

/-- 40_gate.md R101: TICK.REL arms the gate whatever it was, and a run of TICK.REL is idempotent. -/
def Obligations.ReleaseArmsTheGate : Prop :=
  (∀ w : TxnWord, w.getLsbD 19 = false → w.getLsbD 18 = true → decode w = .tickRel) ∧
  ∀ s : State, s.fault = .none →
    ∃ t : State, t = { ready := true, fault := s.fault, pending := s.pending, out := some Output.zero } ∧
      exec .tickRel s = .next t ∧ exec .tickRel t = .next t

/-- 40_gate.md R102: a pressed sample in a DISARMED gate changes no state and gives the zero record, TICK.PRS.RSV
included. -/
def Obligations.PressWhileDisarmedDoesNothing : Prop :=
  (∀ w : TxnWord, w.getLsbD 19 = false → w.getLsbD 18 = false → (decode w).isPress = true) ∧
  ∀ (i : Instr) (s : State), i.isPress = true → s.fault = .none → s.ready = false →
    exec i s = .next { ready := s.ready, fault := s.fault, pending := s.pending, out := some Output.zero }

/-- 40_gate.md R104: a fire whose read succeeds disarms the gate and reports the dispatched event; the rule's example
is the record `0x911002` of reading 4. -/
def Obligations.SuccessfulFireReportsTheEvent : Prop :=
  (∀ w : TxnWord, w &&& 0xF0000#20 = 0x00000#20 → decode w = .tickPrsOk (w.extractLsb' 0 16)) ∧
  (okRecord Config.tables 0x0004#16).pack = 0x911002#24 ∧
  ∀ (raw : RawReading) (s : State), s.fault = .none →
    (s.ready = true → (dispatch (translateRaw Config.tables raw)).kind ≠ .none ∧ exec (.tickPrsOk raw) s = .next
      { ready := false, fault := s.fault, pending := s.pending
        out := some
          { rdReq := true, err := false
            kind := (dispatch (translateRaw Config.tables raw)).kind
            index := (dispatch (translateRaw Config.tables raw)).index
            count := (dispatch (translateRaw Config.tables raw)).count
            mask := (dispatch (translateRaw Config.tables raw)).mask } }) ∧
    (s.ready = false → exec (.tickPrsOk raw) s = .next
      { ready := false, fault := s.fault, pending := s.pending, out := some Output.zero })

/-- 40_gate.md R105: a fire whose read fails disarms the gate and reports `0xC00000`; later pressed samples of the same
press do nothing. -/
def Obligations.FailedFireReportsAnError : Prop :=
  (∀ w : TxnWord, w &&& 0xF0000#20 = 0x10000#20 → decode w = .tickPrsFail) ∧
  ∀ s : State, s.fault = .none →
    (s.ready = true → ∃ (t : State) (o : Output), o.pack = 0xC00000#24 ∧ o.kind = .none ∧
      t = { ready := false, fault := s.fault, pending := s.pending, out := some o } ∧ exec .tickPrsFail s = .next t ∧
      ∀ i : Instr, i.isPress = true → exec i t = .next (t.setOut (some Output.zero))) ∧
    (s.ready = false → exec .tickPrsFail s =
      .next { ready := false, fault := s.fault, pending := s.pending, out := some Output.zero })

/-- 40_gate.md R106: a fire whose read is skipped disarms the gate and reports `0x800000`, silently; the press is lost
as after a failed read. -/
def Obligations.BusyFireIsSilent : Prop :=
  (∀ w : TxnWord, w &&& 0xF0000#20 = 0x20000#20 → decode w = .tickPrsBusy) ∧
  ∀ s : State, s.fault = .none →
    (s.ready = true → ∃ (t : State) (o : Output), o.pack = 0x800000#24 ∧ o.err = false ∧ o.kind = .none ∧
      t = { ready := false, fault := s.fault, pending := s.pending, out := some o } ∧ exec .tickPrsBusy s = .next t ∧
      ∀ i : Instr, i.isPress = true → exec i t = .next (t.setOut (some Output.zero))) ∧
    (s.ready = false → exec .tickPrsBusy s =
      .next { ready := false, fault := s.fault, pending := s.pending, out := some Output.zero })

/-- 40_gate.md R107: the reserved response faults exactly when the gate reads it; then `READY` keeps its value. -/
def Obligations.ReservedResponseFaultsWhenRead : Prop :=
  (∀ w : TxnWord, w &&& 0xF0000#20 = 0x30000#20 → decode w = .tickPrsRsv) ∧
  ∀ s : State, s.fault = .none →
    (s.ready = true → exec .tickPrsRsv s =
      .fault (.illegalResponse { ready := true, fault := .illegalResponse, pending := s.pending, out := none })) ∧
    (s.ready = false → exec .tickPrsRsv s =
      .next { ready := false, fault := s.fault, pending := s.pending, out := some Output.zero })

/-- 40_gate.md R103: the part common to every pressed sample of an ARMED gate. The reserved response raises the fault
before `READY` or `RD_REQ` is written: `FAULT` alone is set, `READY` is kept and no record is shown. -/
def Obligations.EveryFireReadsOnceAndDisarms : Prop :=
  ∀ (i : Instr) (s : State), i.isPress = true → s.fault = .none → s.ready = true →
    (i = .tickPrsRsv → ∃ left, exec i s = .fault (.illegalResponse left) ∧ left.ready = s.ready ∧
      left.fault = .illegalResponse ∧ left.out = none) ∧
    (i ≠ .tickPrsRsv → ∃ t o, exec i s = .next t ∧ t.ready = false ∧ t.out = some o ∧ o.rdReq = true ∧
      o.calls.count .busRead = 1)

/-- 60_exceptions.md R201, R202: each error class has its outcome, none stops the block, and only a transport failure
has an output code. -/
def Obligations.ErrorClassesHaveTheirOutcomes : Prop :=
  ∀ s : State, s.fault = .none → s.ready = true →
    (∃ t o, exec .tickPrsFail s = .next t ∧ t.ready = false ∧ t.out = some o ∧
      o.rdReq = true ∧ o.err = true ∧ o.kind = .none ∧ o.index = 0 ∧ o.count = 0 ∧ o.mask = 0) ∧
    (∃ t o, exec .tickPrsBusy s = .next t ∧ t.ready = false ∧ t.out = some o ∧
      o.rdReq = true ∧ o.err = false ∧ o.kind = .none) ∧
    (∀ raw, ∃ t o, exec (.tickPrsOk raw) s = .next t ∧ t.ready = false ∧ t.out = some o ∧
      o.rdReq = true ∧ o.err = false ∧ o.kind ≠ .none)

/-! ## The step -/

/-- 20_memory.md R49, 40_gate.md R108: a step takes the host's next word and performs the instruction it decodes to,
in the state without that word. -/
def Obligations.StepRunsTheDecodedTransaction : Prop :=
  ∀ (s : State) (w : TxnWord) (rest : List TxnWord), s.pending = w :: rest →
    step s = exec (decode w) (s.setPending rest)

/-- 40_gate.md R108, with 60_exceptions.md R206: the step agrees with the flat pseudocode over the word's bits. -/
def Obligations.StepAgreesWithTheFlatPseudocode : Prop :=
  ∀ (s : State) (w : TxnWord) (rest : List TxnWord), s.pending = w :: rest →
    (s.fault ≠ .none → step s = .fault .stuck) ∧
    (s.fault = .none →
      match flatStep Config.tables s.ready w with
      | some (ready', bits) => ∃ o : Output, o.pack = bits ∧
          step s = .next { ready := ready', fault := .none, pending := rest, out := some o }
      | none => step s =
          .fault (.illegalResponse { ready := s.ready, fault := .illegalResponse, pending := rest, out := none }))

/-- With no transaction issued the block waits and keeps its state. The waiting step is the model's reading of
70_reset_and_hazards.md R241 and 60_exceptions.md R214 (log entry 2). -/
def Obligations.BlockWaitsForATransaction : Prop :=
  ∀ s : State, s.pending = [] → s.fault = .none →
    step s = .next { ready := s.ready, fault := s.fault, pending := [], out := none }

/-- 10_state.md R22: only the reserved response read by an ARMED gate sets `FAULT`, nothing clears it, and a faulted
machine has no step. -/
def Obligations.FaultMarkIsStickyAndStopsTheBlock : Prop :=
  (∀ s : State, s.fault ≠ .none → step s = .fault .stuck ∧ ∀ i, exec i s = .fault .stuck) ∧
  (∀ s t : State, step s = .next t → s.fault = .none ∧ t.fault = .none) ∧
  (∀ s left : State, step s = .fault (.illegalResponse left) →
    left.fault = .illegalResponse ∧
      ∃ w rest, s.pending = w :: rest ∧ decode w = .tickPrsRsv ∧ s.ready = true ∧ s.fault = .none)

/-- 60_exceptions.md R203, R207: the fault's one cause, the state it leaves, and that no step follows. -/
def Obligations.IllegalResponseIsPreciseAndFinal : Prop :=
  ∀ (i : Instr) (s left : State),
    (exec i s = .fault (.illegalResponse left) ↔
      i = .tickPrsRsv ∧ s.fault = .none ∧ s.ready = true ∧
        left = { ready := s.ready, fault := .illegalResponse, pending := s.pending, out := none }) ∧
    (exec i s = .fault (.illegalResponse left) → step left = .fault .stuck ∧ ∀ j, exec j left = .fault .stuck)

/-- 10_state.md R20, R21: `READY` has exactly three writers, only the TICK.PRS classes read it, and a step without a
transaction keeps it. -/
def Obligations.ReadyHasExactlyThreeWriters : Prop :=
  (∀ (i : Instr) (s t : State), exec i s = .next t →
    (i = .tickRel → t.ready = true) ∧ (i = .reset → t.ready = false) ∧
    (i.isPress = true → s.ready = true → t.ready = false ∧ ∃ o, t.out = some o ∧ o.rdReq = true) ∧
    (i.isPress = true → s.ready = false → t.ready = s.ready)) ∧
  (∀ (i : Instr) (s : State) (b : Bool), i.isPress = false → exec i (s.setReady b) = exec i s) ∧
  (∀ s t : State, s.pending = [] → step s = .next t → t.ready = s.ready)

/-- 10_state.md section 3: the host sees `READY` only through its effect, that a TICK.PRS fires. `RD_REQ = 1` marks the
fires, and every other record is `0x000000` (30_encoding.md section 4), so that none of its fields shows `READY`. -/
def Obligations.ReadyIsSeenOnlyThroughFires : Prop :=
  ∀ (i : Instr) (s t : State), exec i s = .next t →
    ∃ o, t.out = some o ∧ (o.rdReq = true ↔ i.isPress = true ∧ s.ready = true) ∧
      (¬(i.isPress = true ∧ s.ready = true) → o.pack = 0x000000#24)

/-- The frame of every transaction class (10_state.md R21, R22; 40_gate.md R101 to R106; 70_reset_and_hazards.md
R240): the fault mark and the transactions to come are unchanged, and `READY` changes only where TICK.REL, RESET or a
fire writes it. -/
def Obligations.TransactionFrame : Prop :=
  ∀ (i : Instr) (s t : State), exec i s = .next t →
    t.fault = s.fault ∧ t.pending = s.pending ∧
    (t.ready ≠ s.ready → i = .tickRel ∧ t.ready = true ∨ i = .reset ∧ t.ready = false ∨
      i.isPress = true ∧ i ≠ .tickPrsRsv ∧ t.ready = false)

/-- 10_state.md R29: no value of a step outlives it. What a transaction does depends on the instruction, `READY` and
`FAULT` alone. -/
def Obligations.NoHiddenState : Prop :=
  ∀ (i : Instr) (s s' t : State), s.ready = s'.ready → s.fault = s'.fault → exec i s = .next t →
    exec i s' = .next { ready := t.ready, fault := t.fault, pending := s'.pending, out := t.out }

/-- 20_memory.md R42: the read's answer is taken from the same word, and the read is performed at most once, exactly
when the gate fires. -/
def Obligations.BusReadIsAnsweredFromTheWord : Prop :=
  (∀ w : TxnWord,
    (w.extractLsb' 16 2 = 0b00#2 → busRead w = .ok (w.extractLsb' 0 16)) ∧
    (w.extractLsb' 16 2 = 0b01#2 → busRead w = .fail) ∧ (w.extractLsb' 16 2 = 0b10#2 → busRead w = .busy) ∧
    (w.extractLsb' 16 2 = 0b11#2 → busRead w = .reserved) ∧
    (w.getLsbD 19 = false → w.getLsbD 18 = false → busAnswerOf (decode w) = some (busRead w))) ∧
  (∀ (s t : State) (w : TxnWord) (rest : List TxnWord) (o : Output),
    s.pending = w :: rest → step s = .next t → t.out = some o →
    o.calls.count .busRead ≤ 1 ∧
      (Call.busRead ∈ o.calls ↔ s.ready = true ∧ w.getLsbD 19 = false ∧ w.getLsbD 18 = false)) ∧
  (∀ (t : Tables) (s : State), fire t .reserved s = raiseIllegalResponse s)

/-- 20_memory.md R44: byte 0 of the receive is `DATA[7:0]` and byte 1 is `DATA[15:8]`. That byte 0 is the first
received is the spec's own general knowledge (93 G1, log entry 8). -/
def Obligations.RawReadingIsLittleEndian : Prop :=
  ∀ byte0 byte1 : BitVec 8,
    (dataOfBytes byte0 byte1).extractLsb' 0 8 = byte0 ∧ (dataOfBytes byte0 byte1).extractLsb' 8 8 = byte1

/-! ## Reset and invariants -/

/-- 10_state.md R30, 70_reset_and_hazards.md R241: the reset values, equal after power-on and after RESET; the first
transaction may be of any class. -/
def Obligations.ResetValues : Prop :=
  State.reset.ready = false ∧ State.reset.fault = .none ∧
  (∀ s t : State, exec .reset s = .next t → t.ready = State.reset.ready ∧ t.fault = State.reset.fault) ∧
  (∀ i : Instr, ∃ t, exec i State.reset = .next t)

/-- The reset state meets the invariant. That its port shows no record is the model's choice (log entry 3). -/
def Obligations.ResetMeetsTheInvariant : Prop := State.reset.Inv

/-- Every step keeps the invariant: canonical records (30_encoding.md R67), DISARMED after a fire (40_gate.md R103),
and a fault mark only beside `READY = 1` and an empty port (60_exceptions.md R203). -/
def Obligations.EveryStepKeepsTheInvariant : Prop :=
  ∀ s : State, s.Inv →
    (∀ t, step s = .next t → t.Inv) ∧ (∀ left, step s = .fault (.illegalResponse left) → left.Inv)

/-! ## The translator -/

/-- 41_translator.md R122: `REMAP` looks up the twelve one-hot codes and returns every other value unchanged. -/
def Obligations.RemapLooksUpOneHotCodes : Prop :=
  (∀ (t : Tables) (k : Key), remap t (1#16 <<< k.val) = t.onehotMap k) ∧
  (∀ (t : Tables) (raw : RawReading), (∀ k : Key, raw ≠ 1#16 <<< k.val) → remap t raw = raw) ∧
  remap Config.tables 0x0004#16 = 0x0200#16

/-- 41_translator.md R123, R129: bit `i` of the KeyMask is lane `i`, `(v & KEYVALS[i]) != 0`. -/
def Obligations.TranslateSetsTheMatchingLanes : Prop :=
  (∀ (t : Tables) (raw : RawReading) (i : Key),
    (translateRaw t raw).getLsbD i.val = true ↔ remap t raw &&& t.keyvals i ≠ 0) ∧
  translateRaw Config.tables 0x0004#16 = 0x002#12

/-- 41_translator.md R125: `TRANSLATE(0) = 0` for every configuration. -/
def Obligations.TranslateOfZeroIsEmpty : Prop :=
  ∀ t : Tables, translateRaw t 0x0000#16 = 0x000#12

/-- 41_translator.md R121: a reading with any of bits 12 to 15 set is not remapped, and those bits count only where
some `KEYVALS[i]` has one of them. -/
def Obligations.HighBitsAreNotMasked : Prop :=
  ∀ (t : Tables) (raw : RawReading) (j : Nat), 12 ≤ j → raw.getLsbD j = true →
    remap t raw = raw ∧ translateRaw t raw = matchKeys t raw ∧
    ∀ i : Key, (∀ b, 12 ≤ b → (t.keyvals i).getLsbD b = false) → lane t raw i = lane t (raw &&& 0x0FFF#16) i

/-- 41_translator.md R126: a reading with two or more bits set is matched as it is; under `REFCFG` raw bit 8 is key 8
alone and key 0 inside a chord. -/
def Obligations.MultiBitReadingsAreMatchedAsTheyAre : Prop :=
  (∀ (t : Tables) (raw : RawReading) (j k : Nat), j ≠ k → raw.getLsbD j = true → raw.getLsbD k = true →
    ∀ i : Key, (translateRaw t raw).getLsbD i.val = true ↔ raw &&& t.keyvals i ≠ 0) ∧
  translateRaw refTables 0x0100#16 = 0x100#12 ∧ translateRaw refTables 0x0300#16 = 0x003#12

/-- 41_translator.md R127: bits of the remapped value that no `KEYVALS[i]` covers contribute nothing; a covered bit
sets its key's bit even if the reading matched no one-hot code. -/
def Obligations.UncoveredBitsContributeNothing : Prop :=
  (∀ (t : Tables) (v c : RawReading), (∀ i : Key, c &&& t.keyvals i = 0) → matchKeys t (v ||| c) = matchKeys t v) ∧
  (∀ (t : Tables) (raw : RawReading), translateRaw t raw = matchKeys t (remap t raw)) ∧
  (∀ (t : Tables) (raw : RawReading) (i : Key), (∀ k : Key, raw ≠ 1#16 <<< k.val) → raw &&& t.keyvals i ≠ 0 →
    (translateRaw t raw).getLsbD i.val = true)

/-- The inference the spec marks in 41_translator.md R130: under `WF_ONEHOT` every one-hot code gives one key; in every
configuration the set bits are as many as the matching indices. -/
def Obligations.SetBitsCountTheMatches : Prop :=
  (∀ t : Tables, t.WfOnehot → ∀ k : Key, numSetBits (translateRaw t (1#16 <<< k.val)) = 1) ∧
  ∀ (t : Tables) (raw : RawReading),
    numSetBits (translateRaw t raw) = (Finset.univ.filter fun i : Key => remap t raw &&& t.keyvals i ≠ 0).card

/-- 41_translator.md R124: the same reading gives the same record in any two ARMED states. -/
def Obligations.SameReadingGivesTheSameRecord : Prop :=
  ∀ (raw : RawReading) (s s' : State), s.fault = .none → s.ready = true → s'.fault = .none → s'.ready = true →
    ∃ t t', exec (.tickPrsOk raw) s = .next t ∧ exec (.tickPrsOk raw) s' = .next t' ∧ t.out = t'.out

/-- 00_scope.md R12: the device's tables meet the constraints (a), (b) and (c). -/
def Obligations.DeviceTablesMeetTheConstraints : Prop :=
  Config.tables.onehotMap 2 = 0x0200#16 ∧ Config.tables.keyvals 1 &&& 0x0200#16 ≠ 0 ∧
    ∀ j : Key, j ≠ 1 → Config.tables.keyvals j &&& 0x0200#16 = 0

/-- 00_scope.md R11, R12 with 92 D10: the form in which the model leaves the tables open shuts out no pair of tables
that R12 allows, and lets in no other (log entry 6). -/
def Obligations.OpenTablesAreExactlyTheAllowedOnes : Prop :=
  ∀ t : Tables, t.MeetsR12 ↔ ∃ f g : Key → BitVec 16, Tables.ofFree f g = t

/-- 92_eei_decisions.md D25: the reference tables meet R12 and both premises of R13. -/
def Obligations.ReferenceTablesMeetThePremises : Prop :=
  refTables.MeetsR12 ∧ refTables.WfKeyvals ∧ refTables.WfOnehot

/-- 95_test_vectors.md V-S1 and V-S2, any configuration that meets R12: the single key of reading 4 and the spurious
edge. -/
def Obligations.SourceScenariosHoldInEveryConfiguration : Prop :=
  ∀ t : Tables, t.MeetsR12 →
    remap t 0x0004#16 = 0x0200#16 ∧ translateRaw t 0x0004#16 = 0x002#12 ∧
    dispatch (translateRaw t 0x0004#16) = ⟨.single, 0x002#12, 1#4, 1#4⟩ ∧
    (okRecord t 0x0004#16).pack = 0x911002#24 ∧ (okRecord t 0x0000#16).pack = 0xA00000#24

/-! ## The dispatcher -/

/-- 42_dispatcher.md R150: `POPCOUNT12` is the number of set bits, exactly, 0 to 12. -/
def Obligations.PopcountIsExact : Prop :=
  ∀ m : KeyMask, (popcount12 m).toNat = numSetBits m ∧ numSetBits m ≤ 12

/-- 42_dispatcher.md R151: for a mask with one bit set, `LOWBIT12` is the number of that bit. -/
def Obligations.LowbitNamesTheSetBit : Prop :=
  ∀ m : KeyMask, popcount12 m = 1#4 →
    (lowbit12 m).toNat < 12 ∧ m.getLsbD (lowbit12 m).toNat = true ∧
    (∀ j, j < (lowbit12 m).toNat → m.getLsbD j = false) ∧ m = 1#12 <<< (lowbit12 m).toNat

/-- 42_dispatcher.md R152: one set bit is a SINGLE, any other number of them a CHORD with the count. -/
def Obligations.DispatchDecidesByPopcount : Prop :=
  ∀ m : KeyMask,
    (numSetBits m = 1 → dispatch m = ⟨.single, m, 1#4, lowbit12 m⟩) ∧
    (numSetBits m ≠ 1 → dispatch m = ⟨.chord, m, BitVec.ofNat 4 (numSetBits m), 0#4⟩)

/-- 42_dispatcher.md R153, R154: a successful fire calls the resolver exactly once and never the chord handler if one
bit is set, and the chord handler exactly once with the correct count and never the resolver if 0 or at least 2 are. -/
def Obligations.EventGoesToExactlyOneConsumer : Prop :=
  ∀ (raw : RawReading) (s : State), s.fault = .none → s.ready = true →
    ∃ t o, exec (.tickPrsOk raw) s = .next t ∧ t.out = some o ∧
      (numSetBits (translateRaw Config.tables raw) = 1 →
        ∃ j : BitVec 4, translateRaw Config.tables raw = 1#12 <<< j.toNat ∧
          o.calls = [.busRead, .resolve (translateRaw Config.tables raw) j]) ∧
      (numSetBits (translateRaw Config.tables raw) ≠ 1 →
        ∃ c : BitVec 4, c.toNat = numSetBits (translateRaw Config.tables raw) ∧
          o.calls = [.busRead, .onMultiKey (translateRaw Config.tables raw) c])

/-- 42_dispatcher.md R155: an empty mask on a fire is a CHORD with `MASK = 0` and `COUNT = 0`. -/
def Obligations.EmptyMaskIsAChord : Prop :=
  ∀ (raw : RawReading) (s : State), translateRaw Config.tables raw = 0 → s.fault = .none → s.ready = true →
    ∃ t o, exec (.tickPrsOk raw) s = .next t ∧ t.out = some o ∧ o.kind = .chord ∧ o.mask = 0 ∧ o.count = 0 ∧
      o.pack = 0xA00000#24

/-- 42_dispatcher.md R156: exactly one event if a read succeeded on a fire, else none. -/
def Obligations.OneEventPerSuccessfulFire : Prop :=
  ∀ (i : Instr) (s t : State), exec i s = .next t →
    ∃ o, t.out = some o ∧ o.event.length = if isPrsOk i = true ∧ s.ready = true then 1 else 0

/-! ## Runs -/

/-- 20_memory.md R49: transactions complete one at a time in the order the host issues them. -/
def Obligations.TransactionsCompleteInOrder : Prop :=
  ∀ (k : Nat) (s : State), (trace k s).map Prod.fst <+: s.pending.map decode

/-- 40_gate.md R109: among the transactions between two TICK.REL, or between a RESET and the next TICK.REL, at most one
fires. -/
def Obligations.AtMostOneFirePerPressedInterval : Prop :=
  ∀ (k : Nat) (s : State), (∀ w ∈ s.pending.take k, decode w ≠ .tickRel) → fires (trace k s) ≤ 1

/-- 40_gate.md R110: a pressed sample fires right after a TICK.REL (or faults, if its response is reserved), and does
not fire right after another pressed sample. -/
def Obligations.FireOnTheFirstPressAfterARelease : Prop :=
  ∀ (s : State) (w1 w2 : TxnWord) (rest : List TxnWord), s.pending = w1 :: w2 :: rest → s.fault = .none →
    (decode w2).isPress = true →
    (decode w1 = .tickRel → decode w2 ≠ .tickPrsRsv →
      ∃ t u o, step s = .next t ∧ step t = .next u ∧ u.out = some o ∧ o.rdReq = true) ∧
    (decode w1 = .tickRel → decode w2 = .tickPrsRsv →
      ∃ t left, step s = .next t ∧ step t = .fault (.illegalResponse left)) ∧
    (∀ t, (decode w1).isPress = true → step s = .next t →
      ∃ u o, step t = .next u ∧ u.out = some o ∧ o.rdReq = false)

/-- After RESET or power-on, nothing fires before a TICK.REL: 40_gate.md R111, which the spec marks as its own inference
("derived: from 10_state.md rule R30 and rule R102"). -/
def Obligations.PressHeldThroughResetDoesNotFire : Prop :=
  ∀ (s u : State) (ws : List TxnWord) (k : Nat), u = State.reset ∨ exec .reset s = .next u →
    (∀ w ∈ ws, decode w ≠ .tickRel) → fires (trace k (u.setPending ws)) = 0

/-- After a pressed sample that completes, whatever its read returned, the gate is DISARMED, further pressed samples all
complete, and none of them fires. For a failed or busy fire this is 70_reset_and_hazards.md section 3 (the lost press);
for any pressed sample it is the inference the spec marks in 40_gate.md R112 ("derived: from rule R102, with the source's
statement on the line as premise"). -/
def Obligations.NoFireWhileTheLineStaysLow : Prop :=
  ∀ (i : Instr) (s u : State) (ws : List TxnWord), i.isPress = true → exec i s = .next u →
    (∀ w ∈ ws, (decode w).isPress = true) →
    u.ready = false ∧ fires (trace ws.length (u.setPending ws)) = 0 ∧ (trace ws.length (u.setPending ws)).length = ws.length

/-- A single TICK.REL inside a press re-arms the gate, and the next pressed sample fires again: 40_gate.md R113, which
the spec marks as its own inference ("derived: from rule R101 and rule R103"). -/
def Obligations.OneReleasedSampleRearms : Prop :=
  ∀ (s : State) (w1 w2 w3 : TxnWord) (rest : List TxnWord), s.pending = w1 :: w2 :: w3 :: rest → s.fault = .none →
    s.ready = true → (decode w1).isPress = true → decode w1 ≠ .tickPrsRsv → decode w2 = .tickRel →
    (decode w3).isPress = true → decode w3 ≠ .tickPrsRsv → fires (trace 3 s) = 2

/-- Over a run, the SINGLE and CHORD events are as many as the TICK.PRS.OK that fire: 42_dispatcher.md R157, which the
spec marks as its own inference ("derived: from 40_gate.md rule R108 and rule R152"). -/
def Obligations.EventsCountTheSuccessfulFires : Prop :=
  ∀ (k : Nat) (s : State),
    ((trace k s).countP fun p => decide (p.2.kind ≠ .none)) = (trace k s).countP fun p => isPrsOk p.1 && p.2.rdReq

/-- 60_exceptions.md section 7: while the transport keeps its duty never to answer `0b11`, an unfaulted block never
stops, and every transaction the host has issued completes with one record. That a step with nothing left to take is a
next state too is the waiting step of log entry 2 (DEDUCED). The premise speaks of every word to come, and so leaves out a
reserved response met by a DISARMED gate, which completes as well (`PressWhileDisarmedDoesNothing`,
`ReservedResponseFaultsWhenRead`). -/
def Obligations.BlockNeverStopsUnderTheTransportsDuty : Prop :=
  ∀ s : State, s.fault = .none → s.NoReservedResponse →
    (∀ k, ∃ t, Host.Core.run Sys2Proof.core k s = .next t ∧ t.pending = s.pending.drop k ∧ t.fault = .none) ∧
    (trace s.pending.length s).map Prod.fst = s.pending.map decode
end

