-- ==== Sys2Proof/Laws/Assembler.lean ====
section
/-! SUPPORT. The text functions of the assembler: the words of a line, and digits written and read back. -/

namespace Sys2Proof.Machine

/-- A hexadecimal digit is read back. -/
theorem digitValue_hexDigit : ∀ d < 16, digitValue 16 (hexDigit d) = some d := by
  decide

/-- A hexadecimal digit neither separates words nor starts a comment. -/
theorem hexDigit_plain : ∀ d < 16, isSeparator (hexDigit d) = false ∧ hexDigit d ≠ ';' := by
  decide

/-- Digits are written before what follows them. -/
theorem hexDigits_append (k n : Nat) (rest : List Char) : hexDigits k n rest = hexDigits k n [] ++ rest := by
  induction k generalizing n rest with
  | zero => rfl
  | succ k ih =>
    unfold hexDigits
    rw [ih, ih _ [_]]
    simp

/-- No digit written separates words or starts a comment. -/
theorem hexDigits_plain (k n : Nat) : ∀ c ∈ hexDigits k n [], isSeparator c = false ∧ c ≠ ';' := by
  induction k generalizing n with
  | zero => intro c h; cases h
  | succ k ih =>
    intro c h
    unfold hexDigits at h
    rw [hexDigits_append, List.mem_append, List.mem_singleton] at h
    rcases h with h | rfl
    · exact ih _ _ h
    · exact hexDigit_plain _ (Nat.mod_lt _ (by decide))

/-- As many digits are written as asked for. -/
theorem hexDigits_length (k n : Nat) : (hexDigits k n []).length = k := by
  induction k generalizing n with
  | zero => rfl
  | succ k ih =>
    unfold hexDigits
    rw [hexDigits_append]
    simp [ih]

/-- Each digit written, the most significant first. -/
theorem hexDigits_getElem? (k n j : Nat) (h : j < k) :
    (hexDigits k n [])[j]? = some (hexDigit (n / 16 ^ (k - 1 - j) % 16)) := by
  induction k generalizing n with
  | zero => omega
  | succ k ih =>
    unfold hexDigits
    rw [hexDigits_append]
    by_cases hj : j < k
    · rw [List.getElem?_append_left (by rwa [hexDigits_length]), ih _ hj, Nat.div_div_eq_div_mul, ← Nat.pow_succ',
        show (k - 1 - j).succ = k + 1 - 1 - j by omega]
    · obtain rfl : j = k := by omega
      rw [List.getElem?_append_right (by rw [hexDigits_length])]
      simp [hexDigits_length]

/-- Digits are read one part after the other. -/
theorem readDigits_append (base acc : Nat) (cs ds : List Char) :
    readDigits base acc (cs ++ ds) = (readDigits base acc cs).bind fun a => readDigits base a ds := by
  induction cs generalizing acc with
  | nil => rfl
  | cons c cs ih =>
    simp only [List.cons_append, readDigits]
    cases digitValue base c <;> simp [ih]

/-- The digits written of a number are read back as its lowest digits. -/
theorem readDigits_hexDigits (k n acc : Nat) :
    readDigits 16 acc (hexDigits k n []) = some (acc * 16 ^ k + n % 16 ^ k) := by
  induction k generalizing n acc with
  | zero => simp [hexDigits, readDigits, Nat.mod_one]
  | succ k ih =>
    unfold hexDigits
    rw [hexDigits_append, readDigits_append, ih]
    simp only [Option.bind_some, readDigits, digitValue_hexDigit (n % 16) (Nat.mod_lt _ (by decide))]
    congr 1
    rw [Nat.pow_succ, Nat.mul_comm (16 ^ k) 16, Nat.mod_mul]
    ring

/-- A text without separators is one word. -/
theorem wordsFrom_of_plain (cs word : List Char) (h : ∀ c ∈ cs, isSeparator c = false) :
    wordsFrom word cs = if word.reverse ++ cs = [] then [] else [word.reverse ++ cs] := by
  induction cs generalizing word with
  | nil => simp [wordsFrom]
  | cons c cs ih =>
    simp only [List.mem_cons, forall_eq_or_imp] at h
    unfold wordsFrom
    rw [h.1]
    simp only [Bool.false_eq_true, if_false]
    rw [ih _ h.2]
    simp

/-- A text up to a space is the first word. -/
theorem wordsFrom_space (cs word ds : List Char) (h : ∀ c ∈ cs, isSeparator c = false)
    (hne : word.reverse ++ cs ≠ []) : wordsFrom word (cs ++ ' ' :: ds) = (word.reverse ++ cs) :: wordsFrom [] ds := by
  induction cs generalizing word with
  | nil =>
    have hw : word ≠ [] := by simpa using hne
    simp only [List.nil_append, wordsFrom]
    rw [if_pos (by decide), if_neg hw, List.append_nil]
  | cons c cs ih =>
    simp only [List.mem_cons, forall_eq_or_imp] at h
    simp only [List.cons_append, wordsFrom]
    rw [h.1]
    simp only [Bool.false_eq_true, if_false]
    rw [ih (c :: word) h.2 (by simp)]
    simp

end Sys2Proof.Machine
end

