-- ==== Sys2Proof/Laws/Decode.lean ====
section
/-! SUPPORT. The decoder by the fields it looks at, and the table's rows. -/

namespace Sys2Proof

/-- A word with `RST = 1` is RESET. -/
theorem decode_of_rst {w : TxnWord} (h : txnRst w = true) : decode w = .reset := by
  simp [decode, h]

/-- A word with `RST = 0` and `LVL = 1` is TICK.REL. -/
theorem decode_of_lvl {w : TxnWord} (hr : txnRst w = false) (hl : txnLvl w = true) : decode w = .tickRel := by
  simp [decode, hr, hl]

/-- A word with `RST = 0` and `LVL = 0` is a TICK.PRS, by its `RSP`. -/
theorem decode_of_press {w : TxnWord} (hr : txnRst w = false) (hl : txnLvl w = false) :
    decode w = decodePress (txnRsp w) (txnData w) := by
  simp [decode, hr, hl]

/-- Every class decoded from an `RSP` is a pressed sample. -/
theorem decodePress_isPress (rsp : BitVec 2) (data : RawReading) : (decodePress rsp data).isPress = true := by
  unfold decodePress
  split_ifs <;> rfl

/-- A word is its four fields, put together. -/
theorem txnWord_eq_fields (w : TxnWord) :
    w = BitVec.ofBool (txnRst w) ++ BitVec.ofBool (txnLvl w) ++ txnRsp w ++ txnData w := by
  apply BitVec.eq_of_getLsbD_eq
  intro i hi
  simp only [txnRst, txnLvl, txnRsp, txnData, BitVec.getLsbD_append, BitVec.getLsbD_extractLsb', BitVec.getLsbD_ofBool]
  interval_cases i <;> simp

/-- The fields of a word put together are the ones it was put together from. -/
theorem fields_of_txnWord (rst lvl : Bool) (rsp : BitVec 2) (data : RawReading) :
    let w : TxnWord := BitVec.ofBool rst ++ BitVec.ofBool lvl ++ rsp ++ data
    txnRst w = rst ∧ txnLvl w = lvl ∧ txnRsp w = rsp ∧ txnData w = data := by
  refine ⟨?_, ?_, ?_, ?_⟩
  · simp only [txnRst, BitVec.getLsbD_append]; simp
  · simp only [txnLvl, BitVec.getLsbD_append]; simp
  · apply BitVec.eq_of_getLsbD_eq
    intro i hi
    simp only [txnRsp, BitVec.getLsbD_extractLsb', BitVec.getLsbD_append]
    interval_cases i <;> simp
  · apply BitVec.eq_of_getLsbD_eq
    intro i hi
    simp only [txnData, BitVec.getLsbD_extractLsb', BitVec.getLsbD_append]
    interval_cases i <;> simp

/-- The four values of a two-bit field. -/
theorem twoBits_cases (r : BitVec 2) : r = 0b00#2 ∨ r = 0b01#2 ∨ r = 0b10#2 ∨ r = 0b11#2 := by
  revert r
  decide

/-- The opcode table lists the row of every instruction. -/
theorem rowOf_mem (i : Instr) : rowOf i ∈ opcodeRows := by
  cases i <;> simp [opcodeRows, rowOf]

/-- The pattern of a row has no bit outside its mask. -/
theorem pattern_within_mask : ∀ r ∈ opcodeRows, r.pattern &&& r.mask = r.pattern := by
  decide

/-- No two rows of the opcode table select a common word: their patterns differ within both masks. -/
theorem rows_disjoint :
    opcodeRows.Pairwise fun r r' => r.pattern &&& r'.mask &&& r.mask ≠ r'.pattern &&& r.mask &&& r'.mask := by
  decide

end Sys2Proof
end

