-- ==== Sys2Proof/Laws/Translator.lean ====
section
/-! SUPPORT. The loops of the translator: the remap's search and the KeyMask built of lanes. -/

namespace Sys2Proof.Machine

/-- Every key number is in the list the loops run over. -/
theorem mem_keys (k : Key) : k ∈ keys := by
  revert k
  decide

/-- The one-hot codes of two bit positions differ. -/
theorem oneHot_injective : ∀ j k : Key, oneHot j = oneHot k → j = k := by
  decide

/-- The search returns the entry of the code it finds. -/
theorem remapAmong_of_mem (t : Tables) (k : Key) (ks : List Key) (h : k ∈ ks) :
    remapAmong t (oneHot k) ks = t.onehotMap k := by
  induction ks with
  | nil => cases h
  | cons j js ih =>
    by_cases hj : oneHot k = oneHot j
    · simp [remapAmong, oneHot_injective k j hj]
    · have hk : k ∈ js := by
        rcases List.mem_cons.mp h with rfl | h'
        · exact absurd rfl hj
        · exact h'
      simp [remapAmong, hj, ih hk]

/-- The search returns a value that is no code unchanged. -/
theorem remapAmong_of_not_oneHot (t : Tables) (raw : RawReading) (ks : List Key) (h : ∀ k ∈ ks, raw ≠ oneHot k) :
    remapAmong t raw ks = raw := by
  induction ks with
  | nil => rfl
  | cons j js ih =>
    simp only [List.mem_cons, forall_eq_or_imp] at h
    simp [remapAmong, h.1, ih h.2]

/-- The mask of key `j` has bit `i` set exactly for `i = j`. -/
theorem oneKey_getLsbD : ∀ i j : Key, (1#12 <<< j.val).getLsbD i.val = decide (i = j) := by
  decide

/-- Bit `i` of the KeyMask built of lanes is lane `i`. -/
theorem keyMaskOf_getLsbD (p : Key → Bool) (i : Key) : (keyMaskOf p).getLsbD i.val = p i := by
  have build : ∀ (ks : List Key) (m : KeyMask),
      (ks.foldl (fun m i => if p i then m ||| 1#12 <<< i.val else m) m).getLsbD i.val =
        (m.getLsbD i.val || (decide (i ∈ ks) && p i)) := by
    intro ks
    induction ks with
    | nil => intro m; simp only [List.foldl_nil, List.not_mem_nil, decide_false, Bool.false_and, Bool.or_false]
    | cons j js ih =>
      intro m
      rw [List.foldl_cons, ih]
      by_cases hij : i = j
      · subst hij
        cases p i
        · simp only [Bool.false_eq_true, if_false, Bool.and_false]
        · simp only [if_true, BitVec.getLsbD_or, oneKey_getLsbD, decide_true, List.mem_cons, true_or,
            Bool.or_true, Bool.true_or, Bool.and_true]
      · cases p j <;>
          simp only [Bool.false_eq_true, if_false, if_true, BitVec.getLsbD_or, oneKey_getLsbD, List.mem_cons,
            hij, decide_false, false_or, Bool.or_false]
  rw [keyMaskOf, build keys 0#12]
  simp [mem_keys]

end Sys2Proof.Machine
end

