-- ==== Sys2Proof/Laws/Dispatcher.lean ====
section
/-! SUPPORT. The loops of the dispatcher: counting set bits, and finding the lowest. -/

namespace Sys2Proof.Machine

/-- Counting over a list of keys adds the number of those set, while 4 bits can hold it. -/
theorem popcountAmong (m : KeyMask) (ks : List Key) (c : BitVec 4) (h : c.toNat + ks.length < 16) :
    (ks.foldl (fun c i => if m.getLsbD i.val then c + 1#4 else c) c).toNat =
      c.toNat + (ks.filter fun i => m.getLsbD i.val).length := by
  induction ks generalizing c with
  | nil => simp
  | cons k ks ih =>
    simp only [List.length_cons] at h
    have hc : (c + 1#4).toNat = c.toNat + 1 := by
      rw [BitVec.toNat_add]; simp; omega
    rw [List.foldl_cons, List.filter_cons]
    by_cases hk : m.getLsbD k.val = true
    · rw [if_pos hk, if_pos hk, ih _ (by omega), hc, List.length_cons]
      omega
    · rw [if_neg hk, if_neg hk, ih _ (by omega)]

/-- The search for the lowest set bit finds the one set bit of the list. -/
theorem lowbitAmong_of_unique (m : KeyMask) (ks : List Key) (i : Key) (hi : i ∈ ks) (hm : m.getLsbD i.val = true)
    (hu : ∀ j ∈ ks, m.getLsbD j.val = true → j = i) : lowbitAmong m ks = BitVec.ofNat 4 i.val := by
  induction ks with
  | nil => cases hi
  | cons k ks ih =>
    unfold lowbitAmong
    by_cases hk : m.getLsbD k.val = true
    · rw [if_pos hk, hu k List.mem_cons_self hk]
    · have hik : i ∈ ks := by
        rcases List.mem_cons.mp hi with rfl | h
        · exact absurd hm hk
        · exact h
      rw [if_neg hk, ih hik fun j hj => hu j (List.mem_cons_of_mem _ hj)]

/-- Two KeyMasks with the same twelve bits are equal. -/
theorem keyMask_ext {m n : KeyMask} (h : ∀ i : Key, m.getLsbD i.val = n.getLsbD i.val) : m = n :=
  BitVec.eq_of_getLsbD_eq fun j hj => h ⟨j, hj⟩

end Sys2Proof.Machine
end

