-- ==== Sys2Proof/Laws/State.lean ====
section
/-! SUPPORT. What each update of the state does to each field, and the fields of the reset state and of the zero
record. -/

namespace Sys2Proof.Machine

@[simp] theorem State.setReady_ready (s : State) (b : Bool) : (s.setReady b).ready = b := rfl
@[simp] theorem State.setReady_fault (s : State) (b : Bool) : (s.setReady b).fault = s.fault := rfl
@[simp] theorem State.setReady_pending (s : State) (b : Bool) : (s.setReady b).pending = s.pending := rfl
@[simp] theorem State.setReady_out (s : State) (b : Bool) : (s.setReady b).out = s.out := rfl

@[simp] theorem State.setFault_ready (s : State) (m : FaultMark) : (s.setFault m).ready = s.ready := rfl
@[simp] theorem State.setFault_fault (s : State) (m : FaultMark) : (s.setFault m).fault = m := rfl
@[simp] theorem State.setFault_pending (s : State) (m : FaultMark) : (s.setFault m).pending = s.pending := rfl
@[simp] theorem State.setFault_out (s : State) (m : FaultMark) : (s.setFault m).out = s.out := rfl

@[simp] theorem State.setPending_ready (s : State) (ws : List TxnWord) : (s.setPending ws).ready = s.ready := rfl
@[simp] theorem State.setPending_fault (s : State) (ws : List TxnWord) : (s.setPending ws).fault = s.fault := rfl
@[simp] theorem State.setPending_pending (s : State) (ws : List TxnWord) : (s.setPending ws).pending = ws := rfl
@[simp] theorem State.setPending_out (s : State) (ws : List TxnWord) : (s.setPending ws).out = s.out := rfl

@[simp] theorem State.setOut_ready (s : State) (o : Option Output) : (s.setOut o).ready = s.ready := rfl
@[simp] theorem State.setOut_fault (s : State) (o : Option Output) : (s.setOut o).fault = s.fault := rfl
@[simp] theorem State.setOut_pending (s : State) (o : Option Output) : (s.setOut o).pending = s.pending := rfl
@[simp] theorem State.setOut_out (s : State) (o : Option Output) : (s.setOut o).out = o := rfl

@[simp] theorem State.arm_ready (s : State) : s.arm.ready = true := rfl
@[simp] theorem State.arm_fault (s : State) : s.arm.fault = s.fault := rfl
@[simp] theorem State.arm_pending (s : State) : s.arm.pending = s.pending := rfl
@[simp] theorem State.arm_out (s : State) : s.arm.out = s.out := rfl

@[simp] theorem State.disarm_ready (s : State) : s.disarm.ready = false := rfl
@[simp] theorem State.disarm_fault (s : State) : s.disarm.fault = s.fault := rfl
@[simp] theorem State.disarm_pending (s : State) : s.disarm.pending = s.pending := rfl
@[simp] theorem State.disarm_out (s : State) : s.disarm.out = s.out := rfl

@[simp] theorem faultedState_ready (s : State) : (faultedState s).ready = s.ready := rfl
@[simp] theorem faultedState_fault (s : State) : (faultedState s).fault = .illegalResponse := rfl
@[simp] theorem faultedState_pending (s : State) : (faultedState s).pending = s.pending := rfl
@[simp] theorem faultedState_out (s : State) : (faultedState s).out = none := rfl

@[simp] theorem State.reset_ready : State.reset.ready = false := rfl
@[simp] theorem State.reset_fault : State.reset.fault = .none := rfl
@[simp] theorem State.reset_pending : State.reset.pending = [] := rfl
@[simp] theorem State.reset_out : State.reset.out = none := rfl

@[simp] theorem Output.zero_rdReq : Output.zero.rdReq = false := rfl
@[simp] theorem Output.zero_err : Output.zero.err = false := rfl
@[simp] theorem Output.zero_kind : Output.zero.kind = .none := rfl
@[simp] theorem Output.zero_index : Output.zero.index = 0 := rfl
@[simp] theorem Output.zero_count : Output.zero.count = 0 := rfl
@[simp] theorem Output.zero_mask : Output.zero.mask = 0 := rfl

/-- Two states with the same fields are the same state. -/
theorem State.eq_of_fields {s t : State} (hr : s.ready = t.ready) (hf : s.fault = t.fault)
    (hp : s.pending = t.pending) (ho : s.out = t.out) : s = t := by
  cases s; cases t; simp_all

end Sys2Proof.Machine
end

