-- ==== Sys2Proof/Laws/Ops.lean ====
section
/-! SUPPORT. What the shared operations can answer: completing, raising the fault, the guard of a faulted machine,
taking a transaction, waiting. -/

namespace Sys2Proof.Machine

/-- The guard lets an unfaulted machine's step through. -/
theorem unlessFaulted_of_none {s : State} {k : Host.Outcome State Fault Refusal} (h : s.fault = .none) :
    unlessFaulted s k = k := by
  simp [unlessFaulted, h]

/-- The guard stops a faulted machine. -/
theorem unlessFaulted_of_faulted {s : State} {k : Host.Outcome State Fault Refusal} (h : s.fault ≠ .none) :
    unlessFaulted s k = .fault .stuck := by
  cases hf : s.fault with
  | none => exact absurd hf h
  | illegalResponse => simp [unlessFaulted, hf]

/-- All the guard can answer: the step of an unfaulted machine, or the stop of a faulted one. -/
theorem unlessFaulted_cases (s : State) (k : Host.Outcome State Fault Refusal) :
    (s.fault = .none ∧ unlessFaulted s k = k) ∨ (s.fault ≠ .none ∧ unlessFaulted s k = .fault .stuck) := by
  by_cases h : s.fault = .none
  · exact .inl ⟨h, unlessFaulted_of_none h⟩
  · exact .inr ⟨h, unlessFaulted_of_faulted h⟩

/-- Completing a transaction shows its record and changes nothing else. -/
theorem complete_eq_next {s t : State} {o : Output} (h : complete s o = .next t) :
    t.ready = s.ready ∧ t.fault = s.fault ∧ t.pending = s.pending ∧ t.out = some o := by
  cases h
  exact ⟨rfl, rfl, rfl, rfl⟩

@[simp] theorem fetch_nil {s : State} (h : s.pending = []) : fetch s = none := by
  simp [fetch, h]

@[simp] theorem fetch_cons {s : State} {w : TxnWord} {rest : List TxnWord} (h : s.pending = w :: rest) :
    fetch s = some (decode w, s.setPending rest) := by
  simp [fetch, h]

end Sys2Proof.Machine
end

