-- ==== Sys2Proof/Laws/Gate.lean ====
section
/-! SUPPORT. What a pressed sample, an instruction and a step can do, each said once. -/

namespace Sys2Proof.Machine

/-- The record of a fire with each answer; the reserved answer has none. -/
def fireRecord (t : Tables) : BusAnswer → Option Output
  | .ok raw => some (okRecord t raw)
  | .fail => some failRecord
  | .busy => some busyRecord
  | .reserved => none

/-- A fire completes DISARMED with its answer's record, or raises the fault where the answer has none. -/
theorem fire_eq (t : Tables) (a : BusAnswer) (s : State) :
    fire t a s = match fireRecord t a with
      | some o => complete s.disarm o
      | none => raiseIllegalResponse s := by
  cases a <;> rfl

/-- What a class that samples the line as pressed does. -/
theorem exec_press {i : Instr} (h : i.isPress = true) :
    ∃ a, busAnswerOf i = some a ∧ (a = .reserved ↔ i = .tickPrsRsv) ∧ ∀ s, exec i s = press Config.tables a s := by
  cases i with
  | reset => simp [Instr.isPress] at h
  | tickRel => simp [Instr.isPress] at h
  | tickPrsOk data => exact ⟨.ok data, rfl, by simp, fun _ => rfl⟩
  | tickPrsFail => exact ⟨.fail, rfl, by simp, fun _ => rfl⟩
  | tickPrsBusy => exact ⟨.busy, rfl, by simp, fun _ => rfl⟩
  | tickPrsRsv => exact ⟨.reserved, rfl, by simp, fun _ => rfl⟩

/-- The next state of an instruction: everything `exec` can do when it completes. -/
theorem exec_next_cases {i : Instr} {s t : State} (h : exec i s = .next t) :
    s.fault = .none ∧
      ((i = .reset ∧ t = s.disarm.setOut (some .zero)) ∨
        (i = .tickRel ∧ t = s.arm.setOut (some .zero)) ∨
        (i.isPress = true ∧ s.ready = false ∧ t = s.setOut (some .zero)) ∨
        (s.ready = true ∧ ∃ a o, i.isPress = true ∧ busAnswerOf i = some a ∧ fireRecord Config.tables a = some o ∧
          t = s.disarm.setOut (some o))) := by
  by_cases hf : s.fault = .none
  · refine ⟨hf, ?_⟩
    cases i with
    | reset =>
      simp only [exec, execReset, unlessFaulted_of_none hf, complete, Host.Outcome.next.injEq] at h
      exact .inl ⟨rfl, h.symm⟩
    | tickRel =>
      simp only [exec, execTickRel, unlessFaulted_of_none hf, complete, Host.Outcome.next.injEq] at h
      exact .inr (.inl ⟨rfl, h.symm⟩)
    | _ =>
      simp only [exec, execTickPrsOk, execTickPrsFail, execTickPrsBusy, execTickPrsRsv, press,
        unlessFaulted_of_none hf] at h
      refine .inr (.inr ?_)
      cases hr : s.ready with
      | false =>
        simp only [hr, Bool.false_eq_true, if_false, complete, Host.Outcome.next.injEq] at h
        exact .inl ⟨rfl, rfl, h.symm⟩
      | true =>
        simp only [hr, if_true, fire, raiseIllegalResponse, complete, Host.Outcome.next.injEq, reduceCtorEq] at h <;>
          exact .inr ⟨rfl, _, _, rfl, rfl, rfl, h.symm⟩
  · exfalso
    cases i <;> simp [exec, execReset, execTickRel, execTickPrsOk, execTickPrsFail, execTickPrsBusy, execTickPrsRsv,
      press, unlessFaulted_of_faulted hf] at h

/-- A faulted machine has no step. -/
theorem exec_of_faulted {s : State} (h : s.fault ≠ .none) (i : Instr) : exec i s = .fault .stuck := by
  cases i <;> exact unlessFaulted_of_faulted h

/-- The fault's state is reached only by the reserved response read by an ARMED, unfaulted gate. -/
theorem exec_illegalResponse_cases {i : Instr} {s left : State} (h : exec i s = .fault (.illegalResponse left)) :
    i = .tickPrsRsv ∧ s.fault = .none ∧ s.ready = true ∧ left = faultedState s := by
  by_cases hf : s.fault = .none
  · cases hr : s.ready <;> cases i <;>
      simp_all [exec, execReset, execTickRel, execTickPrsOk, execTickPrsFail, execTickPrsBusy, execTickPrsRsv, press,
        unlessFaulted_of_none hf, fire, complete, raiseIllegalResponse]
  · rw [exec_of_faulted hf] at h
    cases h

/-- A step with a transaction issued performs it. -/
theorem step_cons {s : State} {w : TxnWord} {rest : List TxnWord} (h : s.pending = w :: rest) :
    step s = exec (decode w) (s.setPending rest) := by
  simp [step, fetch_cons h]

/-- A step with no transaction issued waits. -/
theorem step_nil {s : State} (h : s.pending = []) : step s = waitForTransaction s := by
  simp [step, fetch_nil h]

end Sys2Proof.Machine
end

