-- ==== Sys2Proof/Laws/PerInstr.lean ====
section
/-! SUPPORT. Statements made for every instruction, one lemma per constructor. -/

/-- The canonical word of an instruction meets its row's mask and match (30_encoding.md R65, R72). -/
def Sys2Proof.Laws.CanonicalWordMeetsItsRow.Statement (i : Sys2Proof.Instr) : Prop :=
  Sys2Proof.encode i &&& (Sys2Proof.rowOf i).mask = (Sys2Proof.rowOf i).pattern

namespace Sys2Proof.Laws.CanonicalWordMeetsItsRow

theorem reset : Statement .reset := by
  unfold Statement; decide

theorem tickRel : Statement .tickRel := by
  unfold Statement; decide

theorem tickPrsOk (data : Sys2Proof.RawReading) : Statement (.tickPrsOk data) := by
  show (0x00000#20 ||| data.setWidth 20) &&& 0xF0000#20 = 0x00000#20
  have high : ∀ j < 20, (0xF0000#20).getLsbD j = decide (16 ≤ j) := by decide
  apply BitVec.eq_of_getLsbD_eq
  intro j hj
  by_cases h : 16 ≤ j
  · simp [BitVec.getLsbD_of_ge data j h]
  · simp only [BitVec.getLsbD_and, high j hj]
    simp [h]

theorem tickPrsFail : Statement .tickPrsFail := by
  unfold Statement; decide

theorem tickPrsBusy : Statement .tickPrsBusy := by
  unfold Statement; decide

theorem tickPrsRsv : Statement .tickPrsRsv := by
  unfold Statement; decide

end Sys2Proof.Laws.CanonicalWordMeetsItsRow
end

