-- ==== Sys2Proof/Laws/Record.lean ====
section
/-! SUPPORT. The 24 bits of an output record as its fields put together. -/

namespace Sys2Proof.Machine

/-- 24 bits are their six fields, put together (30_encoding.md R66). -/
theorem recordWord_eq_fields (w : BitVec 24) :
    w = BitVec.ofBool (w.getLsbD 23) ++ BitVec.ofBool (w.getLsbD 22) ++ w.extractLsb' 20 2 ++ w.extractLsb' 16 4 ++
      w.extractLsb' 12 4 ++ w.extractLsb' 0 12 := by
  apply BitVec.eq_of_getLsbD_eq
  intro i hi
  simp only [BitVec.getLsbD_append, BitVec.getLsbD_extractLsb', BitVec.getLsbD_ofBool]
  interval_cases i <;> simp

/-- The kind's bits are the kind. -/
theorem Kind.ofBits_eq_some (b : BitVec 2) (k : Kind) : Kind.ofBits b = some k ↔ k.bits = b := by
  cases k <;> revert b <;> decide

end Sys2Proof.Machine
end

