-- ==== Sys2Proof/Laws/Run.lean ====
section
/-! SUPPORT. What a completed step did, and a run taken one transaction at a time. -/

namespace Sys2Proof.Machine

/-- An instruction that completes keeps the fault mark and the transactions to come, and shows a record. -/
theorem exec_next_keeps {i : Instr} {s t : State} (h : exec i s = .next t) :
    t.fault = s.fault ∧ t.pending = s.pending ∧ ∃ o, t.out = some o := by
  obtain ⟨-, ⟨-, rfl⟩ | ⟨-, rfl⟩ | ⟨-, -, rfl⟩ | ⟨-, _, _, -, -, -, rfl⟩⟩ := exec_next_cases h <;>
    exact ⟨rfl, rfl, _, rfl⟩

/-- A faulted machine has no step. -/
theorem step_of_faulted {s : State} (h : s.fault ≠ .none) : step s = .fault .stuck := by
  cases hp : s.pending with
  | nil => rw [step_nil hp, waitForTransaction, unlessFaulted_of_faulted h]
  | cons w rest => rw [step_cons hp, exec_of_faulted (by simpa using h)]

/-- All a completed step can have done: waited, or performed the next transaction. -/
theorem step_next_cases {s t : State} (h : step s = .next t) :
    s.fault = .none ∧ ((s.pending = [] ∧ t = s.setOut none) ∨
      ∃ w rest, s.pending = w :: rest ∧ exec (decode w) (s.setPending rest) = .next t) := by
  have hf : s.fault = .none := by
    by_contra hc
    rw [step_of_faulted hc] at h
    cases h
  refine ⟨hf, ?_⟩
  cases hp : s.pending with
  | nil =>
    rw [step_nil hp, waitForTransaction, unlessFaulted_of_none hf] at h
    cases h
    exact .inl ⟨rfl, rfl⟩
  | cons w rest => exact .inr ⟨w, rest, rfl, step_cons hp ▸ h⟩

/-- A run whose first step completes. -/
theorem trace_succ (k : Nat) {s t : State} (h : step s = .next t) : trace (k + 1) s = takenIn s t ++ trace k t := by
  simp only [trace, h]

/-- A run whose first step stops. -/
theorem trace_of_stop (k : Nat) {s : State} (h : ∀ t, step s ≠ .next t) : trace k s = [] := by
  cases k with
  | zero => rfl
  | succ k =>
    cases hs : step s with
    | next t => exact absurd hs (h t)
    | fault _ => simp only [trace, hs]
    | refused _ => simp only [trace, hs]

/-- A waiting step takes nothing. -/
theorem takenIn_nil {s : State} (t : State) (h : s.pending = []) : takenIn s t = [] := by
  simp only [takenIn, fetch_nil h]

/-- A step with a transaction takes it, with the record it shows. -/
theorem takenIn_cons {s t : State} {w : TxnWord} {rest : List TxnWord} {o : Output} (h : s.pending = w :: rest)
    (ho : t.out = some o) : takenIn s t = [(decode w, o)] := by
  simp only [takenIn, fetch_cons h, ho]

/-- A run without transactions completes none. -/
theorem trace_of_no_pending (k : Nat) {s : State} (h : s.pending = []) : trace k s = [] := by
  induction k generalizing s with
  | zero => rfl
  | succ k ih =>
    by_cases hs : ∃ t, step s = .next t
    · obtain ⟨t, hs⟩ := hs
      obtain ⟨-, ⟨-, rfl⟩ | ⟨w, rest, hw, -⟩⟩ := step_next_cases hs
      · rw [trace_succ k hs, takenIn_nil _ h, ih (s := s.setOut none) (by simpa using h), List.nil_append]
      · rw [h] at hw
        cases hw
    · exact trace_of_stop _ fun t ht => hs ⟨t, ht⟩

/-- A run with a transaction: it completes first, or the run stops at it. -/
theorem trace_cons (k : Nat) {s : State} {w : TxnWord} {rest : List TxnWord} (h : s.pending = w :: rest) :
    ((∀ t, step s ≠ .next t) ∧ trace (k + 1) s = []) ∨
      ∃ t o, exec (decode w) (s.setPending rest) = .next t ∧ t.out = some o ∧ t.pending = rest ∧
        t.fault = s.fault ∧ trace (k + 1) s = (decode w, o) :: trace k t := by
  by_cases hs : ∃ t, step s = .next t
  · obtain ⟨t, hs⟩ := hs
    have he := step_cons h ▸ hs
    obtain ⟨hf, hp, o, ho⟩ := exec_next_keeps he
    refine .inr ⟨t, o, he, ho, hp, hf, ?_⟩
    rw [trace_succ k hs, takenIn_cons h ho, List.singleton_append]
  · exact .inl ⟨fun t ht => hs ⟨t, ht⟩, trace_of_stop _ fun t ht => hs ⟨t, ht⟩⟩

end Sys2Proof.Machine
end

