-- ==== Sys2Proof/Tests/Slice0.lean ====
section
/-! SUPPORT. The model's own tests. Expected values are the spec's: 95_test_vectors.md, and the examples of the rules.
The witnesses at the end show states and operands that meet the hypotheses of the statements. -/

namespace Sys2Proof.Tests

open Sys2Proof.Machine

/-! ## Helpers -/

/-- An ARMED block to which the host has issued `ws`. -/
def armed (ws : List TxnWord) : State := ⟨true, .none, ws, none⟩

/-- A DISARMED block to which the host has issued `ws`. -/
def disarmed (ws : List TxnWord) : State := ⟨false, .none, ws, none⟩

/-- A faulted block to which the host has issued `ws`. -/
def faulted (ws : List TxnWord) : State := ⟨true, .illegalResponse, ws, none⟩

/-- `READY` and the record's bits after a step; nothing where it does not complete. -/
def view : Host.Outcome State Fault Refusal → Option (Bool × BitVec 24)
  | .next t => t.out.map fun o => (t.ready, o.pack)
  | .fault _ => none
  | .refused _ => none

/-- The state an `IllegalResponse` leaves, if the outcome is one. -/
def leftBy : Host.Outcome State Fault Refusal → Option State
  | .next _ => none
  | .fault (.illegalResponse left) => some left
  | .fault .stuck => none
  | .refused _ => none

/-! ## Encoding: words written out from the rows of 30_encoding.md R65, bit 19 first -/

theorem test_decode_reset : decode 0b1_0_11_1010101111001101#20 = .reset := by decide
theorem test_decode_tickRel : decode 0b0_1_11_1111111111111111#20 = .tickRel := by decide
theorem test_decode_tickPrsOk : decode 0b0_0_00_0001000000000100#20 = .tickPrsOk 0x1004#16 := by decide
theorem test_decode_tickPrsFail : decode 0b0_0_01_1010101111001101#20 = .tickPrsFail := by decide
theorem test_decode_tickPrsBusy : decode 0b0_0_10_0000000000000000#20 = .tickPrsBusy := by decide
theorem test_decode_tickPrsRsv : decode 0b0_0_11_1111111111111111#20 = .tickPrsRsv := by decide
theorem test_decodeTableWord_top : decodeTableWord 24 0xFFFFF = some .reset := by decide
theorem test_decodeTableWord_too_wide : decodeTableWord 24 0x100000 = none := by decide
/-- 20_memory.md R44, with 95_test_vectors.md section 2 ("Byte order"). -/
theorem test_dataOfBytes : dataOfBytes 0x00#8 0x03#8 = 0x0300#16 ∧ dataOfBytes 0x04#8 0x00#8 = 0x0004#16 := by decide

/-! ## Well-formedness: an ill-formed source line for each check of 30_encoding.md R70 -/

theorem test_wf_accepts : (AsmLine.mk .tickPrsOk (some 0xFFFF)).WellFormed := by decide
theorem test_wf_missing_data : ¬ (AsmLine.mk .tickPrsOk none).WellFormed := by decide
theorem test_wf_data_out_of_range : ¬ (AsmLine.mk .tickPrsOk (some 0x10000)).WellFormed := by decide
theorem test_wf_operand_refused : ¬ (AsmLine.mk .tickPrsFail (some 0)).WellFormed := by decide
theorem test_wf_missing_count : ¬ (AsmLine.mk .hold none).WellFormed := by decide
theorem test_wf_tap_out_of_range : ¬ (AsmLine.mk .tap (some 0x10000)).WellFormed := by decide

/-! ## Assembler text (30_encoding.md R70 to R72) -/

theorem test_parse_data :
    parseLine "TICK.PRS.OK   0x1004    ; bit 12".toList = .ok [.tickPrsOk 0x1004#16] := by decide
theorem test_parse_decimal : parseLine "TICK.PRS.OK 4".toList = .ok [.tickPrsOk 0x0004#16] := by decide
theorem test_parse_tap : parseLine "TAP 0x0300".toList = .ok [.tickRel, .tickPrsOk 0x0300#16, .tickRel] := by decide
theorem test_parse_hold : parseLine "HOLD 2".toList = .ok [.tickPrsOk 0#16, .tickPrsOk 0#16] := by decide
theorem test_parse_comment : parseLine "; nothing".toList = .ok [] := by decide
theorem test_parse_lower_case : parseLine "reset".toList = .error .unknownMnemonic := by decide
theorem test_parse_out_of_range : parseLine "TICK.PRS.OK 0x10000".toList = .error .outOfRange := by decide
theorem test_assemble :
    assemble ["RESET".toList, "IDLE 1".toList, "TICK.PRS.FAIL".toList] = .ok [0x80000#20, 0x40000#20, 0x10000#20] := by
  decide
theorem test_wordText_canonical : wordText 0x00004#20 = "TICK.PRS.OK 0x0004".toList := by decide
theorem test_wordText_not_canonical : wordText 0x1ABCD#20 = "TICK.PRS.FAIL ; 0x1ABCD".toList := by decide

/-! ## One transaction (95_test_vectors.md section 3; the `o` column) -/

theorem test_reset_armed : view (exec .reset (armed [])) = some (false, 0x000000#24) := by decide
theorem test_tickRel_disarmed : view (exec .tickRel (disarmed [])) = some (true, 0x000000#24) := by decide
theorem test_tickRel_armed : view (exec .tickRel (armed [])) = some (true, 0x000000#24) := by decide
theorem test_tickPrsOk_disarmed : view (exec (.tickPrsOk 4) (disarmed [])) = some (false, 0x000000#24) := by decide
theorem test_tickPrsFail_armed : view (exec .tickPrsFail (armed [])) = some (false, 0xC00000#24) := by decide
theorem test_tickPrsFail_disarmed : view (exec .tickPrsFail (disarmed [])) = some (false, 0x000000#24) := by decide
theorem test_tickPrsBusy_armed : view (exec .tickPrsBusy (armed [])) = some (false, 0x800000#24) := by decide
theorem test_tickPrsBusy_disarmed : view (exec .tickPrsBusy (disarmed [])) = some (false, 0x000000#24) := by decide
theorem test_tickPrsRsv_armed : leftBy (exec .tickPrsRsv (armed [])) = some (faulted []) := by decide
theorem test_tickPrsRsv_disarmed : view (exec .tickPrsRsv (disarmed [])) = some (false, 0x000000#24) := by decide
/-- Row 23: a faulted block has no step, RESET included. -/
theorem test_reset_faulted :
    view (step (faulted [0x80000#20])) = none ∧ leftBy (step (faulted [0x80000#20])) = none := by decide
/-- A step takes the head of the host's transactions and leaves the rest. -/
theorem test_step_takes_the_head :
    (match step (armed [0x80000#20, 0x40000#20]) with
      | .next t => some (t.ready, t.pending)
      | .fault _ => none
      | .refused _ => none) = some (false, [0x40000#20]) := by decide
theorem test_withFetchWord_runs_next :
    view (step (State.reset.withFetchWord 24 0x40000)) = some (true, 0x000000#24) := by decide
/-- The same from the reset state with TICK.PRS.OK: DISARMED, so no table is read. -/
theorem test_withFetchWord_pressed :
    view (step (State.reset.withFetchWord 24 0x00004)) = some (false, 0x000000#24) := by decide

/-! ## The translator and the dispatcher under REFCFG (95_test_vectors.md section 4; row numbers in the names) -/

theorem test_row1 : view (press refTables (.ok 0x0000) (armed [])) = some (false, 0xA00000#24) := by decide
theorem test_row3 : view (press refTables (.ok 0x0002) (armed [])) = some (false, 0x921004#24) := by decide
theorem test_row4 : view (press refTables (.ok 0x0004) (armed [])) = some (false, 0x911002#24) := by decide
theorem test_row13 : view (press refTables (.ok 0x0800) (armed [])) = some (false, 0x9B1800#24) := by decide
theorem test_row14 : view (press refTables (.ok 0x1000) (armed [])) = some (false, 0xA00000#24) := by decide
theorem test_row17 : view (press refTables (.ok 0x1004) (armed [])) = some (false, 0x961040#24) := by decide
theorem test_row19 : view (press refTables (.ok 0x0006) (armed [])) = some (false, 0xA02060#24) := by decide
theorem test_row21 : view (press refTables (.ok 0x0300) (armed [])) = some (false, 0xA02003#24) := by decide
theorem test_row24 : view (press refTables (.ok 0x0FFF) (armed [])) = some (false, 0xA0CFFF#24) := by decide
theorem test_row25 : view (press refTables (.ok 0xFFFF) (armed [])) = some (false, 0xA0CFFF#24) := by decide
/-- 95_test_vectors.md section 5, rows 4, 7 and 10. -/
theorem test_dispatch :
    dispatch 0x400#12 = ⟨.single, 0x400#12, 1#4, 10#4⟩ ∧ dispatch 0x801#12 = ⟨.chord, 0x801#12, 2#4, 0#4⟩ ∧
      dispatch 0x7FF#12 = ⟨.chord, 0x7FF#12, 11#4, 0#4⟩ := by decide
theorem test_calls :
    (okRecord refTables 0x0004).calls = [.busRead, .resolve 0x002#12 1#4] ∧
      (okRecord refTables 0x0300).calls = [.busRead, .onMultiKey 0x003#12 2#4] ∧
      failRecord.calls = [.busRead, .logError] ∧ busyRecord.calls = [.busRead] := by decide

/-! ## Witnesses: what meets the hypotheses of each statement that has some, clause by clause -/

/-- `UnreadFieldsHaveNoEffect`: two words for each clause. -/
theorem test_witness_unreadFields :
    ((0x80000#20).getLsbD 19 = true ∧ (0xBABCD#20).getLsbD 19 = true) ∧
    ((0x40000#20).getLsbD 19 = false ∧ (0x7FFFF#20).getLsbD 19 = false ∧ (0x40000#20).getLsbD 18 = true ∧
      (0x7FFFF#20).getLsbD 18 = true) ∧
    ((0x00004#20).getLsbD 19 = false ∧ (0x30000#20).getLsbD 19 = false ∧ (0x00004#20).getLsbD 18 = false ∧
      (0x30000#20).getLsbD 18 = false ∧ (disarmed []).ready = false) ∧
    ((0x10004#20).getLsbD 19 = false ∧ (0x10004#20).getLsbD 18 = false ∧ (0x1ABCD#20).getLsbD 19 = false ∧
      (0x1ABCD#20).getLsbD 18 = false ∧ (0x10004#20).extractLsb' 16 2 = (0x1ABCD#20).extractLsb' 16 2 ∧
      (0x10004#20).extractLsb' 16 2 = 0b01#2) ∧
    ((0x20000#20).getLsbD 19 = false ∧ (0x20000#20).getLsbD 18 = false ∧ (0x2FFFF#20).getLsbD 19 = false ∧
      (0x2FFFF#20).getLsbD 18 = false ∧ (0x20000#20).extractLsb' 16 2 = (0x2FFFF#20).extractLsb' 16 2 ∧
      (0x20000#20).extractLsb' 16 2 = 0b10#2) := by decide

/-- `CanonicalWordsAndDisassembly`, `DisassembledTextAssemblesBack`: a word on each side of being canonical. -/
theorem test_witness_canonical :
    0x1ABCD#20 ≠ encode (decode 0x1ABCD#20) ∧ 0x0FFFF#20 = encode (decode 0x0FFFF#20) := by decide

/-- `PseudoTransactionsExpand`, `AssemblerChecksTheOperand`: the operands where the clauses meet. -/
theorem test_witness_operandRange : 0xFFFF < 0x10000 ∧ 0x10000 ≤ 0x10000 := by decide

/-- Instructions that complete, for every statement with the hypothesis `exec i s = .next t`: each class in a
DISARMED block, and each that completes in an ARMED one. -/
theorem test_witness_completes :
    (∃ t, exec .reset (armed []) = .next t ∧ t.ready ≠ (armed []).ready ∧ t.out = some .zero) ∧
    (∃ t, exec .tickRel (disarmed []) = .next t ∧ t.ready ≠ (disarmed []).ready ∧ t.out = some .zero) ∧
    (∃ t, exec (.tickPrsOk 4) (disarmed []) = .next t ∧ t.out = some .zero) ∧
    (∃ t, exec .tickPrsRsv (disarmed []) = .next t ∧ t.out = some .zero) ∧
    (∃ t, exec (.tickPrsOk 4) (armed []) = .next t ∧ t.ready ≠ (armed []).ready) ∧
    (∃ t, exec .tickPrsFail (armed []) = .next t ∧ t.out = some failRecord) ∧
    (∃ t, exec .tickPrsBusy (armed []) = .next t ∧ t.out = some busyRecord) :=
  ⟨⟨_, rfl, by decide, rfl⟩, ⟨_, rfl, by decide, rfl⟩, ⟨_, rfl, rfl⟩, ⟨_, rfl, rfl⟩, ⟨_, rfl, by decide⟩, ⟨_, rfl, rfl⟩,
    ⟨_, rfl, rfl⟩⟩

/-- `ResetDisarmsTheGate`, `ReleaseArmsTheGate`, `PressWhileDisarmedDoesNothing`, `SuccessfulFireReportsTheEvent`,
`FailedFireReportsAnError`, `BusyFireIsSilent`, `ReservedResponseFaultsWhenRead`, `EveryFireReadsOnceAndDisarms`,
`ErrorClassesHaveTheirOutcomes`, `SameReadingGivesTheSameRecord`: unfaulted states of either `READY`, a faulted one,
pressed samples with and without the reserved response, and words of each shape. -/
theorem test_witness_states :
    ((armed []).fault = .none ∧ (armed []).ready = true) ∧ ((disarmed []).fault = .none ∧ (disarmed []).ready = false) ∧
    (faulted []).fault ≠ .none ∧ Instr.tickPrsRsv.isPress = true ∧
    ((Instr.tickPrsOk 0xFFFF).isPress = true ∧ Instr.tickPrsOk 0xFFFF ≠ .tickPrsRsv) ∧
    (0xFFFFF#20).getLsbD 19 = true ∧ ((0x7FFFF#20).getLsbD 19 = false ∧ (0x7FFFF#20).getLsbD 18 = true) ∧
    ((0x3FFFF#20).getLsbD 19 = false ∧ (0x3FFFF#20).getLsbD 18 = false) ∧
    0x0FFFF#20 &&& 0xF0000#20 = 0x00000#20 ∧ 0x1ABCD#20 &&& 0xF0000#20 = 0x10000#20 ∧
    0x20004#20 &&& 0xF0000#20 = 0x20000#20 ∧ 0x3FFFF#20 &&& 0xF0000#20 = 0x30000#20 := by decide

/-- `OutputFieldsThatDoNotApplyAreZero`: a record of every kind that a completing transaction shows. -/
theorem test_witness_recordKinds :
    (∃ t o, exec .tickPrsFail (armed []) = .next t ∧ t.out = some o ∧ o.kind ≠ .single ∧ o.kind = .none) ∧
    (∃ t o, exec (.tickPrsOk 0) (disarmed []) = .next t ∧ t.out = some o ∧ (disarmed []).ready = false) ∧
    (∃ t o, exec .tickRel (armed []) = .next t ∧ t.out = some o ∧ Instr.tickRel.isPress = false) ∧
    (∃ t o, exec (.tickPrsOk 0) (armed []) = .next t ∧ t.out = some o ∧ o.kind ≠ .none) ∧
    (∃ t o, exec .tickPrsFail (armed []) = .next t ∧ t.out = some o ∧ o.err = true) := by
  refine ⟨⟨_, _, rfl, rfl, by decide, rfl⟩, ⟨_, _, rfl, rfl, rfl⟩, ⟨_, _, rfl, rfl, rfl⟩, ⟨_, _, rfl, rfl, ?_⟩,
    _, _, rfl, rfl, rfl⟩
  simp only [okRecord, dispatch]
  split_ifs <;> simp

/-- `StepRunsTheDecodedTransaction`, `StepAgreesWithTheFlatPseudocode`, `BusReadIsAnsweredFromTheWord`: a transaction
issued to a block of each kind, and a step that completes with a record. -/
theorem test_witness_step :
    (armed [0x10000#20]).pending = 0x10000#20 :: [] ∧ (armed [0x10000#20]).fault = .none ∧
    (faulted [0x80000#20]).pending = 0x80000#20 :: [] ∧ (faulted [0x80000#20]).fault ≠ .none ∧
    (∃ t, step (armed [0x10000#20]) = .next t ∧ t.out = some failRecord) ∧
    (0x00004#20).extractLsb' 16 2 = 0b00#2 ∧ (0x10000#20).extractLsb' 16 2 = 0b01#2 ∧
    (0x20000#20).extractLsb' 16 2 = 0b10#2 ∧ (0x30000#20).extractLsb' 16 2 = 0b11#2 :=
  ⟨rfl, rfl, rfl, by decide, ⟨_, rfl, rfl⟩, by decide, by decide, by decide, by decide⟩

/-- `BlockWaitsForATransaction`, the last clause of `ReadyHasExactlyThreeWriters`: a waiting step. -/
theorem test_witness_waits :
    (armed []).pending = [] ∧ (armed []).fault = .none ∧ ∃ t, step (armed []) = .next t ∧ t.ready = true :=
  ⟨rfl, rfl, _, rfl, rfl⟩

/-- `FaultMarkIsStickyAndStopsTheBlock`, `IllegalResponseIsPreciseAndFinal`: the fault as a step and as an
instruction. -/
theorem test_witness_illegalResponse :
    (∃ left, step (armed [0x30000#20]) = .fault (.illegalResponse left)) ∧
      (∃ left, exec .tickPrsRsv (armed []) = .fault (.illegalResponse left)) ∧
      ∃ t, step (disarmed [0x30000#20]) = .next t :=
  ⟨⟨_, rfl⟩, ⟨_, rfl⟩, _, rfl⟩

/-- `ReadyHasExactlyThreeWriters`: classes that read `READY` and classes that do not. -/
theorem test_witness_writers :
    Instr.reset.isPress = false ∧ Instr.tickRel.isPress = false ∧
      (∃ t, exec .tickPrsBusy (armed []) = .next t ∧ Instr.tickPrsBusy.isPress = true ∧ (armed []).ready = true) ∧
      ∃ t, exec .tickPrsBusy (disarmed []) = .next t ∧ (disarmed []).ready = false :=
  ⟨rfl, rfl, ⟨_, rfl, rfl, rfl⟩, _, rfl, rfl⟩

/-- `NoHiddenState`: two states that differ in the port and in what the host has issued. -/
theorem test_witness_noHiddenState :
    (armed []).ready = (⟨true, .none, [0#20], some failRecord⟩ : State).ready ∧
      (armed []).fault = (⟨true, .none, [0#20], some failRecord⟩ : State).fault ∧
      ∃ t, exec .tickPrsFail (armed []) = .next t :=
  ⟨rfl, rfl, _, rfl⟩

/-- `EveryStepKeepsTheInvariant`: a state that shows a fire's record meets the invariant, and so does an ARMED one; the
one takes a step, the other faults. -/
theorem test_witness_invariant :
    (⟨false, .none, [0x40000#20], some failRecord⟩ : State).Inv ∧
      (∃ t, step ⟨false, .none, [0x40000#20], some failRecord⟩ = .next t) ∧
      (armed [0x30000#20]).Inv ∧ ∃ left, step (armed [0x30000#20]) = .fault (.illegalResponse left) := by
  refine ⟨⟨fun o h => ?_, fun h => (nomatch h)⟩, ⟨_, rfl⟩, ⟨fun o h => (nomatch h), fun h => (nomatch h)⟩, _, rfl⟩
  obtain rfl : failRecord = o := by simpa using h
  exact ⟨⟨fun _ => ⟨rfl, rfl⟩, rfl, rfl, rfl⟩, fun _ => rfl⟩

/-- `RemapLooksUpOneHotCodes`, `HighBitsAreNotMasked`, `MultiBitReadingsAreMatchedAsTheyAre`,
`UncoveredBitsContributeNothing`: readings at the boundaries, and tables without and with uncovered bits. -/
theorem test_witness_readings :
    (∀ k : Key, 0x1000#16 ≠ 1#16 <<< k.val) ∧ (∀ k : Key, 0x0000#16 ≠ 1#16 <<< k.val) ∧
    (0x1000#16).getLsbD 12 = true ∧ (0x8000#16).getLsbD 15 = true ∧
    (∀ i : Key, ∀ b < 16, 12 ≤ b → (refTables.keyvals i).getLsbD b = false) ∧
    ((0x0801#16).getLsbD 0 = true ∧ (0x0801#16).getLsbD 11 = true) ∧
    (∀ i : Key, 0xF000#16 &&& refTables.keyvals i = 0) ∧
    ((∀ k : Key, 0x0300#16 ≠ 1#16 <<< k.val) ∧ 0x0300#16 &&& refTables.keyvals 0 ≠ 0) := by decide

/-- `HighBitsAreNotMasked`, in the hypothesis' own form: no mask of REFCFG has a bit above 11. -/
theorem test_witness_noHighBits : ∀ i : Key, ∀ b, 12 ≤ b → (refTables.keyvals i).getLsbD b = false := by
  intro i b hb
  by_cases h : b < 16
  · exact test_witness_readings.2.2.2.2.1 i b h hb
  · exact BitVec.getLsbD_of_ge _ _ (by omega)

/-- `SetBitsCountTheMatches`, `SourceScenariosHoldInEveryConfiguration`: tables that meet the premises. -/
theorem test_witness_tables : refTables.MeetsR12 ∧ refTables.WfOnehot := by decide

/-- `LowbitNamesTheSetBit`, `DispatchDecidesByPopcount`: masks with one bit set, the lowest and the highest, and with
none, two and all twelve. -/
theorem test_witness_masks :
    popcount12 0x001#12 = 1#4 ∧ popcount12 0x800#12 = 1#4 ∧ numSetBits 0x800#12 = 1 ∧ numSetBits 0x000#12 ≠ 1 ∧
      numSetBits 0x801#12 ≠ 1 ∧ numSetBits 0xFFF#12 ≠ 1 := by decide

/-- The reading 0 gives the empty mask under the device's tables. -/
theorem translate_config_zero : translateRaw Config.tables 0 = 0 := by
  have hr : remap Config.tables 0 = 0 := remapAmong_of_not_oneHot _ _ _ (by decide)
  refine keyMask_ext fun i => ?_
  rw [translateRaw, matchKeys, keyMaskOf_getLsbD, hr]
  simp [lane]

/-- Some reading gives exactly one key under the device's tables: the source's own, 4. -/
theorem translate_config_four : translateRaw Config.tables 4 = 0x002#12 := by
  have hr : remap Config.tables 4 = 0x0200#16 := remapAmong_of_mem Config.tables 2 keys (mem_keys 2)
  refine keyMask_ext fun i => ?_
  rw [translateRaw, matchKeys, keyMaskOf_getLsbD, hr]
  have hbit : (0x002#12).getLsbD i.val = decide (i = 1) := by revert i; decide
  rw [hbit]
  by_cases hi : i = 1
  · subst hi
    have : (0x0200#16 &&& Config.tables.keyvals 1).getLsbD 9 = true := by
      simp [Config.tables, Tables.ofFree]
    simp only [lane, decide_true, decide_eq_true_eq]
    intro h
    rw [h] at this
    simp at this
  · simp only [lane, Config.tables, Tables.ofFree, hi, if_false, decide_false, decide_eq_false_iff_not, not_not]
    rw [BitVec.and_comm (Config.freeKeyvals i), ← BitVec.and_assoc]
    simp

/-- `EventGoesToExactlyOneConsumer`, `EmptyMaskIsAChord`: a reading with one key and one with none, in an ARMED block. -/
theorem test_witness_events :
    numSetBits (translateRaw Config.tables 4) = 1 ∧ numSetBits (translateRaw Config.tables 0) ≠ 1 ∧
      translateRaw Config.tables 0 = 0 ∧ (armed []).fault = .none ∧ (armed []).ready = true := by
  refine ⟨?_, ?_, translate_config_zero, rfl, rfl⟩
  · rw [translate_config_four]; decide
  · rw [translate_config_zero]; decide

/-- `AtMostOneFirePerPressedInterval`: an ARMED block with two pressed samples and a RESET to come, no TICK.REL. -/
theorem test_witness_pressedInterval :
    ∀ w ∈ (armed [0x10000#20, 0x10000#20, 0x80000#20, 0x20000#20]).pending.take 4, decode w ≠ .tickRel := by
  show ∀ w ∈ [0x10000#20, 0x10000#20, 0x80000#20, 0x20000#20], decode w ≠ .tickRel
  simp only [List.mem_cons, List.not_mem_nil, or_false, forall_eq_or_imp, forall_eq]
  decide

/-- `FireOnTheFirstPressAfterARelease`: a pair of words for each clause. -/
theorem test_witness_firstPress :
    (decode 0x40000#20 = .tickRel ∧ decode 0x10000#20 ≠ .tickPrsRsv ∧ (decode 0x10000#20).isPress = true) ∧
    (decode 0x40000#20 = .tickRel ∧ decode 0x30000#20 = .tickPrsRsv ∧ (decode 0x30000#20).isPress = true) ∧
    ((decode 0x20000#20).isPress = true ∧ (decode 0x30000#20).isPress = true ∧
      ∃ t, step (armed [0x20000#20, 0x30000#20]) = .next t) ∧
    (armed [0x20000#20, 0x30000#20]).pending = [0x20000#20, 0x30000#20] ∧ (armed []).fault = .none :=
  ⟨by decide, by decide, ⟨by decide, by decide, _, rfl⟩, rfl, rfl⟩

/-- `PressHeldThroughResetDoesNotFire`: the state after RESET, and words without TICK.REL. -/
theorem test_witness_heldThroughReset :
    (∃ u, exec .reset (armed []) = .next u) ∧ ∀ w ∈ [0x10000#20, 0x80000#20], decode w ≠ .tickRel :=
  ⟨⟨_, rfl⟩, by simp only [List.mem_cons, List.not_mem_nil, or_false, forall_eq_or_imp, forall_eq]; decide⟩

/-- `NoFireWhileTheLineStaysLow`: a fire whose read fails, and further pressed samples, one of them reserved. -/
theorem test_witness_lineStaysLow :
    Instr.tickPrsFail.isPress = true ∧ (∃ u, exec .tickPrsFail (armed []) = .next u) ∧
      ∀ w ∈ [0x30000#20, 0x00004#20], (decode w).isPress = true :=
  ⟨rfl, ⟨_, rfl⟩, by simp only [List.mem_cons, List.not_mem_nil, or_false, forall_eq_or_imp, forall_eq]; decide⟩

/-- `OneReleasedSampleRearms`: a press, a release and a press, none reserved. -/
theorem test_witness_rearms :
    (armed [0x10000#20, 0x40000#20, 0x20000#20]).pending = 0x10000#20 :: 0x40000#20 :: 0x20000#20 :: [] ∧
    (armed []).fault = .none ∧ (armed []).ready = true ∧ (decode 0x10000#20).isPress = true ∧
    decode 0x10000#20 ≠ .tickPrsRsv ∧ decode 0x40000#20 = .tickRel ∧ (decode 0x20000#20).isPress = true ∧
    decode 0x20000#20 ≠ .tickPrsRsv := by decide

/-- `BlockNeverStopsUnderTheTransportsDuty`: an ARMED block with every class but the reserved response to come. -/
theorem test_witness_transportsDuty :
    (armed [0x00004#20, 0x40000#20, 0x10000#20, 0x80000#20, 0x20000#20]).fault = .none ∧
      (armed [0x00004#20, 0x40000#20, 0x10000#20, 0x80000#20, 0x20000#20]).NoReservedResponse := by
  refine ⟨rfl, ?_⟩
  show ∀ w ∈ [0x00004#20, 0x40000#20, 0x10000#20, 0x80000#20, 0x20000#20], decode w ≠ .tickPrsRsv
  simp only [List.mem_cons, List.not_mem_nil, or_false, forall_eq_or_imp, forall_eq]
  decide

end Sys2Proof.Tests
end

section
/-! The constraints of 00_scope.md R12 hold for every pair of tables that `Tables.ofFree` builds, and so for the
device's. -/

namespace Sys2Proof

variable (f g : Key → BitVec 16)

/-- Constraint (a): entry 2 of the remap is fixed. -/
@[simp] theorem Tables.ofFree_onehotMap_two : (Tables.ofFree f g).onehotMap 2 = 0x0200#16 := rfl

/-- Constraint (b), and more: bit 9 is set in `KEYVALS[1]` whatever the free entry holds. -/
@[simp] theorem Tables.ofFree_keyvals_one_and_bit9 : (Tables.ofFree f g).keyvals 1 &&& 0x0200#16 = 0x0200#16 := by
  show (g 1 ||| 0x0200#16) &&& 0x0200#16 = 0x0200#16
  ext b
  simp +contextual

/-- Constraint (c): bit 9 is clear in every other entry. -/
theorem Tables.ofFree_keyvals_and_bit9_of_ne {j : Key} (hj : j ≠ 1) :
    (Tables.ofFree f g).keyvals j &&& 0x0200#16 = 0 := by
  have hfree : (Tables.ofFree f g).keyvals j = g j &&& ~~~0x0200#16 := if_neg hj
  have hmask : ~~~0x0200#16 &&& 0x0200#16 = 0#16 := by decide
  rw [hfree, BitVec.and_assoc, hmask, BitVec.and_zero]
  rfl

/-- Tables built from free entries meet R12, whatever the free entries are. -/
theorem Tables.ofFree_meetsR12 : (Tables.ofFree f g).MeetsR12 := by
  refine ⟨Tables.ofFree_onehotMap_two f g, ?_, fun _ hj => Tables.ofFree_keyvals_and_bit9_of_ne f g hj⟩
  rw [Tables.ofFree_keyvals_one_and_bit9]
  decide

/-- Settles O43: the device's tables are built from free entries, and every such pair of tables meets R12. -/
theorem deviceTablesMeetTheConstraints : Obligations.DeviceTablesMeetTheConstraints :=
  Tables.ofFree_meetsR12 Config.freeOnehot Config.freeKeyvals

end Sys2Proof
end

section
/-! What each transaction class answers in an unfaulted machine, by the gate's state, and what a step's fault was
raised by: the forward direction of `exec_next_cases`. -/

namespace Sys2Proof.Machine

variable {i : Instr} {s t : State}

/-- The classes that do not sample the line as pressed. -/
theorem eq_reset_or_eq_tickRel_of_not_isPress (h : i.isPress = false) : i = .reset ∨ i = .tickRel := by
  cases i with
  | reset => exact .inl rfl
  | tickRel => exact .inr rfl
  | _ => cases h

/-- A class with a bus answer is a pressed sample with that answer. -/
theorem exec_of_busAnswerOf {a : BusAnswer} (h : busAnswerOf i = some a) (s : State) :
    exec i s = press Config.tables a s := by
  cases i <;> cases h <;> rfl

/-- A completed transaction, field by field. -/
theorem complete_eq_fields (s : State) (o : Output) :
    complete s o = .next { ready := s.ready, fault := s.fault, pending := s.pending, out := some o } := rfl

theorem exec_reset_of_unfaulted (hf : s.fault = .none) : exec .reset s = complete s.disarm .zero :=
  unlessFaulted_of_none hf

theorem exec_tickRel_of_unfaulted (hf : s.fault = .none) : exec .tickRel s = complete s.arm .zero :=
  unlessFaulted_of_none hf

/-- A pressed sample of any class completes without an effect in a DISARMED gate (40_gate.md R102). -/
theorem exec_press_of_disarmed (hi : i.isPress = true) (hf : s.fault = .none) (hr : s.ready = false) :
    exec i s = complete s .zero := by
  obtain ⟨a, -, -, hexec⟩ := exec_press hi
  rw [hexec, press, unlessFaulted_of_none hf, hr]
  exact if_neg Bool.false_ne_true

/-- A pressed sample whose answer has a record fires in an ARMED gate (40_gate.md R103). -/
theorem exec_press_of_armed {a : BusAnswer} {o : Output} (ha : busAnswerOf i = some a)
    (ho : fireRecord Config.tables a = some o) (hf : s.fault = .none) (hr : s.ready = true) :
    exec i s = complete s.disarm o := by
  rw [exec_of_busAnswerOf ha, press, unlessFaulted_of_none hf, if_pos hr, fire_eq, ho]

/-- The record of every fire says that the read was issued (40_gate.md R103). -/
theorem fireRecord_rdReq {tables : Tables} {a : BusAnswer} {o : Output} (h : fireRecord tables a = some o) :
    o.rdReq = true := by
  cases a <;> cases h <;> rfl

/-- A completed step leaves the fault mark as it was. -/
theorem step_next_fault (h : step s = .next t) : t.fault = s.fault := by
  obtain ⟨-, ⟨-, rfl⟩ | ⟨w, rest, -, hexec⟩⟩ := step_next_cases h
  · rfl
  · exact (exec_next_keeps hexec).1

/-- All that a step which raises the fault can have done: it read the reserved response in an ARMED, unfaulted
gate. -/
theorem step_illegalResponse_cases {left : State} (h : step s = .fault (.illegalResponse left)) :
    s.fault = .none ∧ s.ready = true ∧ ∃ w rest,
      s.pending = w :: rest ∧ decode w = .tickPrsRsv ∧ left = faultedState (s.setPending rest) := by
  cases hp : s.pending with
  | nil =>
    rw [step_nil hp, waitForTransaction] at h
    obtain ⟨-, hw⟩ | ⟨-, hw⟩ := unlessFaulted_cases s (.next (s.setOut none)) <;> rw [hw] at h <;> cases h
  | cons w rest =>
    rw [step_cons hp] at h
    obtain ⟨hdecode, hf, hr, hleft⟩ := exec_illegalResponse_cases h
    exact ⟨hf, hr, w, rest, rfl, hdecode, hleft⟩

end Sys2Proof.Machine
end

section
/-! The statements about the architectural state (10_state.md): the writers of `READY`, the fault mark, hidden state
and the reset values. -/

namespace Sys2Proof.Machine

variable {i : Instr} {s t : State}

/-- Settles O24: a faulted state has no step, a completed step keeps the mark, and `step_illegalResponse_cases` names
the one cause. -/
theorem faultMarkIsStickyAndStopsTheBlock : Obligations.FaultMarkIsStickyAndStopsTheBlock := by
  refine ⟨fun s hs => ⟨step_of_faulted hs, exec_of_faulted hs⟩, fun s t h => ?_, fun s left h => ?_⟩
  · have hf := (step_next_cases h).1
    exact ⟨hf, (step_next_fault h).trans hf⟩
  · obtain ⟨hf, hr, w, rest, hp, hdecode, rfl⟩ := step_illegalResponse_cases h
    exact ⟨rfl, w, rest, hp, hdecode, hr, hf⟩

theorem ready_after_tickRel (h : exec .tickRel s = .next t) : t.ready = true := by
  rw [exec_tickRel_of_unfaulted (exec_next_cases h).1] at h
  exact (complete_eq_next h).1

theorem ready_after_reset (h : exec .reset s = .next t) : t.ready = false := by
  rw [exec_reset_of_unfaulted (exec_next_cases h).1] at h
  exact (complete_eq_next h).1

/-- A pressed sample that completes in an ARMED gate is a fire: it disarms the gate and its record says so. -/
theorem ready_after_fire (h : exec i s = .next t) (hi : i.isPress = true) (hr : s.ready = true) :
    t.ready = false ∧ ∃ o, t.out = some o ∧ o.rdReq = true := by
  obtain ⟨-, ⟨rfl, -⟩ | ⟨rfl, -⟩ | ⟨-, hdisarmed, -⟩ | ⟨-, _, o, -, -, ho, rfl⟩⟩ := exec_next_cases h
  · cases hi
  · cases hi
  · rw [hr] at hdisarmed
    cases hdisarmed
  · exact ⟨rfl, o, rfl, fireRecord_rdReq ho⟩

theorem ready_after_press_of_disarmed (h : exec i s = .next t) (hi : i.isPress = true) (hr : s.ready = false) :
    t.ready = s.ready := by
  rw [exec_press_of_disarmed hi (exec_next_cases h).1 hr] at h
  exact (complete_eq_next h).1

/-- RESET and TICK.REL overwrite `READY` without reading it. -/
theorem exec_setReady_of_not_isPress (hi : i.isPress = false) (s : State) (b : Bool) :
    exec i (s.setReady b) = exec i s := by
  obtain rfl | rfl := eq_reset_or_eq_tickRel_of_not_isPress hi <;> rfl

/-- A step with no transaction issued keeps `READY` (10_state.md R21). -/
theorem ready_after_wait (hp : s.pending = []) (h : step s = .next t) : t.ready = s.ready := by
  obtain ⟨-, ⟨-, rfl⟩ | ⟨w, rest, hcons, -⟩⟩ := step_next_cases h
  · rfl
  · rw [hp] at hcons
    cases hcons

/-- Settles O26: one lemma for each writer and for each transaction that leaves `READY` alone. -/
theorem readyHasExactlyThreeWriters : Obligations.ReadyHasExactlyThreeWriters := by
  refine ⟨fun i s t h => ⟨?_, ?_, ready_after_fire h, ready_after_press_of_disarmed h⟩,
    fun i s b hi => exec_setReady_of_not_isPress hi s b, fun s t => ready_after_wait⟩
  · rintro rfl
    exact ready_after_tickRel h
  · rintro rfl
    exact ready_after_reset h

/-- Settles O29: each way an instruction can complete depends on `READY` and `FAULT` only, so the other state completes
in the same way. -/
theorem noHiddenState : Obligations.NoHiddenState := by
  intro i s s' t hr hf h
  obtain ⟨hnone, hcases⟩ := exec_next_cases h
  have hf' : s'.fault = .none := hf ▸ hnone
  obtain ⟨rfl, rfl⟩ | ⟨rfl, rfl⟩ | ⟨hi, hdisarmed, rfl⟩ | ⟨harmed, a, o, -, ha, ho, rfl⟩ := hcases
  · simp [exec_reset_of_unfaulted hf', complete_eq_fields, hf]
  · simp [exec_tickRel_of_unfaulted hf', complete_eq_fields, hf]
  · simp [exec_press_of_disarmed hi hf' (hr ▸ hdisarmed), complete_eq_fields, hr, hf]
  · simp [exec_press_of_armed ha ho hf' (hr ▸ harmed), complete_eq_fields, hf]

/-- Every transaction class may come first after power-on (70_reset_and_hazards.md R241): the gate is DISARMED, so
that even the reserved response completes. -/
theorem exec_reset_state_completes (i : Instr) : ∃ t, exec i State.reset = .next t := by
  cases hi : i.isPress with
  | true => exact ⟨_, exec_press_of_disarmed hi State.reset_fault State.reset_ready⟩
  | false =>
    obtain rfl | rfl := eq_reset_or_eq_tickRel_of_not_isPress hi
    · exact ⟨_, exec_reset_of_unfaulted State.reset_fault⟩
    · exact ⟨_, exec_tickRel_of_unfaulted State.reset_fault⟩

/-- Settles O32: RESET leaves what power-on gives, and the first transaction completes whatever its class. -/
theorem resetValues : Obligations.ResetValues := by
  refine ⟨State.reset_ready, State.reset_fault, fun s t h => ⟨ready_after_reset h, ?_⟩, exec_reset_state_completes⟩
  exact (exec_next_keeps h).1.trans (exec_next_cases h).1

end Sys2Proof.Machine
end

section
/-! The block's one bus read (20_memory.md R42): the answer a word holds, the read among a record's calls, and the
transactions whose record says that it was issued. -/

namespace Sys2Proof.Machine

variable {i : Instr} {s t : State} {w : TxnWord} {o : Output}

theorem busRead_of_rsp_ok (h : txnRsp w = 0b00#2) : busRead w = .ok (txnData w) := if_pos h

theorem busRead_of_rsp_fail (h : txnRsp w = 0b01#2) : busRead w = .fail := by simp [busRead, h]

theorem busRead_of_rsp_busy (h : txnRsp w = 0b10#2) : busRead w = .busy := by simp [busRead, h]

theorem busRead_of_rsp_reserved (h : txnRsp w = 0b11#2) : busRead w = .reserved := by simp [busRead, h]

/-- The class of a pressed word carries the answer of that word. -/
theorem busAnswerOf_decodePress (w : TxnWord) :
    busAnswerOf (decodePress (txnRsp w) (txnData w)) = some (busRead w) := by
  unfold decodePress busRead
  split_ifs <;> rfl

/-- A word is a pressed sample exactly if `RST = 0` and `LVL = 0` (30_encoding.md R65). -/
theorem decode_isPress_iff : (decode w).isPress = true ↔ txnRst w = false ∧ txnLvl w = false := by
  cases hr : txnRst w with
  | true => simp [decode_of_rst hr, Instr.isPress]
  | false =>
    cases hl : txnLvl w with
    | true => simp [decode_of_lvl hr hl, Instr.isPress]
    | false => simp [decode_of_press hr hl, decodePress_isPress]

/-- No event is a bus read. -/
theorem busRead_notMem_event (o : Output) : Call.busRead ∉ o.event := by
  unfold Output.event
  split <;> simp

/-- A record stands for one bus read if its `RD_REQ` is set, and for none otherwise (30_encoding.md R66). -/
theorem count_busRead_calls (o : Output) : o.calls.count .busRead = o.rdReq.toNat := by
  have hevent : o.event.count .busRead = 0 := List.count_eq_zero.2 (busRead_notMem_event o)
  cases hread : o.rdReq <;> cases herr : o.err <;> simp [Output.calls, hread, herr, hevent]

theorem busRead_mem_calls_iff : Call.busRead ∈ o.calls ↔ o.rdReq = true := by
  rw [← List.count_pos_iff, count_busRead_calls]
  cases o.rdReq <;> simp

/-- The record of a completed instruction has `RD_REQ` set exactly if the gate fired (40_gate.md R103). -/
theorem rdReq_iff_fires (h : exec i s = .next t) (ho : t.out = some o) :
    o.rdReq = true ↔ s.ready = true ∧ i.isPress = true := by
  obtain ⟨-, ⟨rfl, rfl⟩ | ⟨rfl, rfl⟩ | ⟨-, hdisarmed, rfl⟩ | ⟨harmed, a, o', hi, -, hrecord, rfl⟩⟩ :=
    exec_next_cases h <;> cases ho
  · simp [Instr.isPress]
  · simp [Instr.isPress]
  · simp [hdisarmed]
  · simp [harmed, hi, fireRecord_rdReq hrecord]

/-- A completed step that takes the word `w` performs the bus read exactly if the gate is ARMED and `w` is a pressed
sample. -/
theorem step_busRead_iff {rest : List TxnWord} (hp : s.pending = w :: rest) (h : step s = .next t)
    (ho : t.out = some o) :
    Call.busRead ∈ o.calls ↔ s.ready = true ∧ txnRst w = false ∧ txnLvl w = false := by
  rw [step_cons hp] at h
  rw [busRead_mem_calls_iff, rdReq_iff_fires h ho, decode_isPress_iff, State.setPending_ready]

end Sys2Proof.Machine
end

section
/-! The statement about the block's one bus read (20_memory.md R42). -/

namespace Sys2Proof.Machine

/-- Settles O30: the answer field by field, and the read of a step from its record's `RD_REQ`, which a fire sets. -/
theorem busReadIsAnsweredFromTheWord : Obligations.BusReadIsAnsweredFromTheWord := by
  refine ⟨fun w => ⟨busRead_of_rsp_ok, busRead_of_rsp_fail, busRead_of_rsp_busy, busRead_of_rsp_reserved,
    fun hrst hlvl => ?_⟩, fun s t w rest o hp h ho => ⟨?_, step_busRead_iff hp h ho⟩, fun _ _ => rfl⟩
  · rw [decode_of_press hrst hlvl, busAnswerOf_decodePress]
  · rw [count_busRead_calls]
    exact Bool.toNat_le o.rdReq

end Sys2Proof.Machine
end

section
/-! The opcode table's masks read a word's fields, and each class by the fields that select it (30_encoding.md R65). -/

namespace Sys2Proof.Machine

variable {w : TxnWord} {i : Instr}

/-- A mask over the top four bits compares `RST`, `LVL` and `RSP`, and leaves `DATA` out. -/
theorem and_mask_eq_pattern_iff (w : TxnWord) (mask pattern : BitVec 4) :
    w &&& (mask ++ 0#16) = pattern ++ 0#16 ↔
      (BitVec.ofBool (txnRst w) ++ BitVec.ofBool (txnLvl w) ++ txnRsp w) &&& mask = pattern := by
  conv_lhs => rw [txnWord_eq_fields w]
  rw [BitVec.and_append, BitVec.and_zero, BitVec.append_left_inj]

theorem resetRow_iff : w &&& 0x80000#20 = 0x80000#20 ↔ txnRst w = true := by
  have hselect : ∀ (rst lvl : Bool) (rsp : BitVec 2),
      (BitVec.ofBool rst ++ BitVec.ofBool lvl ++ rsp) &&& 0b1000#4 = 0b1000#4 ↔ rst = true := by decide
  exact (and_mask_eq_pattern_iff w 0b1000#4 0b1000#4).trans (hselect _ _ _)

theorem tickRelRow_iff : w &&& 0xC0000#20 = 0x40000#20 ↔ txnRst w = false ∧ txnLvl w = true := by
  have hselect : ∀ (rst lvl : Bool) (rsp : BitVec 2),
      (BitVec.ofBool rst ++ BitVec.ofBool lvl ++ rsp) &&& 0b1100#4 = 0b0100#4 ↔ rst = false ∧ lvl = true := by
    decide
  exact (and_mask_eq_pattern_iff w 0b1100#4 0b0100#4).trans (hselect _ _ _)

/-- The rows of the four pressed classes differ only in the `RSP` they ask for. -/
theorem pressRow_iff (r : BitVec 2) :
    w &&& 0xF0000#20 = (0b00#2 ++ r) ++ 0#16 ↔ (txnRst w = false ∧ txnLvl w = false) ∧ txnRsp w = r := by
  have hselect : ∀ (rst lvl : Bool) (rsp r : BitVec 2),
      (BitVec.ofBool rst ++ BitVec.ofBool lvl ++ rsp) &&& 0b1111#4 = 0b00#2 ++ r ↔
        (rst = false ∧ lvl = false) ∧ rsp = r := by decide
  exact (and_mask_eq_pattern_iff w 0b1111#4 (0b00#2 ++ r)).trans (hselect _ _ _ _)

/-- A word with `RST = 0` and `LVL = 0` has no class that does not sample the line as pressed. -/
theorem decode_ne_of_press (hr : txnRst w = false) (hl : txnLvl w = false) (hi : i.isPress = false) :
    decode w ≠ i := by
  rintro rfl
  rw [decode_isPress_iff.2 ⟨hr, hl⟩] at hi
  cases hi

theorem decode_eq_reset_iff : decode w = .reset ↔ txnRst w = true := by
  refine ⟨fun h => ?_, decode_of_rst⟩
  by_contra hr
  rw [Bool.not_eq_true] at hr
  cases hl : txnLvl w with
  | true => simp [decode_of_lvl hr hl] at h
  | false => exact decode_ne_of_press hr hl rfl h

theorem decode_eq_tickRel_iff : decode w = .tickRel ↔ txnRst w = false ∧ txnLvl w = true := by
  refine ⟨fun h => ?_, fun ⟨hr, hl⟩ => decode_of_lvl hr hl⟩
  cases hr : txnRst w with
  | true => simp [decode_of_rst hr] at h
  | false =>
    refine ⟨rfl, ?_⟩
    by_contra hl
    rw [Bool.not_eq_true] at hl
    exact decode_ne_of_press hr hl rfl h

/-- A pressed class is the one that the word's `RSP` selects. -/
theorem decode_eq_press_iff (hi : i.isPress = true) :
    decode w = i ↔ (txnRst w = false ∧ txnLvl w = false) ∧ decodePress (txnRsp w) (txnData w) = i := by
  constructor
  · rintro rfl
    obtain ⟨hr, hl⟩ := decode_isPress_iff.1 hi
    exact ⟨⟨hr, hl⟩, (decode_of_press hr hl).symm⟩
  · rintro ⟨⟨hr, hl⟩, h⟩
    rw [decode_of_press hr hl, h]

section
variable {rsp : BitVec 2} {data d : RawReading}

theorem decodePress_eq_tickPrsOk_iff : decodePress rsp data = .tickPrsOk d ↔ rsp = 0b00#2 ∧ data = d := by
  obtain rfl | rfl | rfl | rfl := twoBits_cases rsp <;> simp [decodePress]

theorem decodePress_eq_tickPrsFail_iff : decodePress rsp data = .tickPrsFail ↔ rsp = 0b01#2 := by
  obtain rfl | rfl | rfl | rfl := twoBits_cases rsp <;> simp [decodePress]

theorem decodePress_eq_tickPrsBusy_iff : decodePress rsp data = .tickPrsBusy ↔ rsp = 0b10#2 := by
  obtain rfl | rfl | rfl | rfl := twoBits_cases rsp <;> simp [decodePress]

theorem decodePress_eq_tickPrsRsv_iff : decodePress rsp data = .tickPrsRsv ↔ rsp = 0b11#2 := by
  obtain rfl | rfl | rfl | rfl := twoBits_cases rsp <;> simp [decodePress]

end

/-- The row that asks for the `RSP` of a pressed class selects that class. -/
theorem pressRow_iff_decode (hi : i.isPress = true) {r : BitVec 2}
    (hrsp : decodePress (txnRsp w) (txnData w) = i ↔ txnRsp w = r) :
    w &&& 0xF0000#20 = (0b00#2 ++ r) ++ 0#16 ↔ decode w = i := by
  rw [pressRow_iff, decode_eq_press_iff hi, hrsp]

theorem tickPrsOkRow_iff : w &&& 0xF0000#20 = 0x00000#20 ↔ ∃ d, decode w = .tickPrsOk d := by
  have hrow : w &&& 0xF0000#20 = 0x00000#20 ↔ decode w = .tickPrsOk (txnData w) :=
    pressRow_iff_decode rfl (decodePress_eq_tickPrsOk_iff.trans (and_iff_left rfl))
  refine hrow.trans ⟨fun h => ⟨_, h⟩, fun ⟨d, h⟩ => ?_⟩
  obtain ⟨-, hpress⟩ := (decode_eq_press_iff rfl).1 h
  rw [h, (decodePress_eq_tickPrsOk_iff.1 hpress).2]

/-- Settles O2: a row's mask and match read the fields that select the row's class. -/
theorem sixRowsPartitionTheWords : Obligations.SixRowsPartitionTheWords := fun _ =>
  ⟨resetRow_iff.trans decode_eq_reset_iff.symm, tickRelRow_iff.trans decode_eq_tickRel_iff.symm, tickPrsOkRow_iff,
    pressRow_iff_decode rfl decodePress_eq_tickPrsFail_iff, pressRow_iff_decode rfl decodePress_eq_tickPrsBusy_iff,
    pressRow_iff_decode rfl decodePress_eq_tickPrsRsv_iff⟩

end Sys2Proof.Machine
end

section
/-! The fields a transaction does not read (30_encoding.md R63). -/

namespace Sys2Proof.Machine

variable {i j : Instr} {s : State} {w w' : TxnWord}

/-- The canonical word of an instruction has no bit outside those its class reads. -/
theorem encode_and_not_readMask (i : Instr) : encode i &&& ~~~readMask i = 0 := by
  cases i with
  | tickPrsOk data =>
    have hall : ~~~0xFFFFF#20 = 0#20 := by decide
    rw [readMask, hall, BitVec.and_zero]
    rfl
  | _ => decide

/-- Words of one class give the same step. -/
theorem step_congr_decode (s : State) (rest : List TxnWord) (h : decode w = decode w') :
    step (s.setPending (w :: rest)) = step (s.setPending (w' :: rest)) := by
  rw [step_cons (State.setPending_pending s _), step_cons (State.setPending_pending s _), h]
  rfl

/-- A DISARMED gate does not ask which pressed class it is given. -/
theorem exec_press_congr_of_disarmed (hi : i.isPress = true) (hj : j.isPress = true) (hready : s.ready = false) :
    exec i s = exec j s := by
  by_cases hf : s.fault = .none
  · rw [exec_press_of_disarmed hi hf hready, exec_press_of_disarmed hj hf hready]
  · rw [exec_of_faulted hf, exec_of_faulted hf]

/-- A read that fails or is skipped leaves `DATA` unread. -/
theorem decodePress_congr_data {rsp : BitVec 2} (h : rsp = 0b01#2 ∨ rsp = 0b10#2) (d d' : RawReading) :
    decodePress rsp d = decodePress rsp d' := by
  obtain rfl | rfl := h <;> rfl

/-- Settles O4: in three of R63's clauses the two words have one class; in the clause of the DISARMED gate they need
not, and the gate answers every pressed class alike. -/
theorem unreadFieldsHaveNoEffect : Obligations.UnreadFieldsHaveNoEffect := by
  refine ⟨encode_and_not_readMask, fun s w w' rest => ⟨fun hr hr' => ?_, fun hr hr' hl hl' => ?_,
    fun hr hr' hl hl' hready => ?_, fun hr hr' hl hl' hrsp hread => ?_⟩⟩
  · exact step_congr_decode s rest ((decode_of_rst hr).trans (decode_of_rst hr').symm)
  · exact step_congr_decode s rest ((decode_of_lvl hr hl).trans (decode_of_lvl hr' hl').symm)
  · rw [step_cons (State.setPending_pending s _), step_cons (State.setPending_pending s _)]
    exact exec_press_congr_of_disarmed (decode_isPress_iff.2 ⟨hr, hl⟩) (decode_isPress_iff.2 ⟨hr', hl'⟩) hready
  · have hclass : decodePress (txnRsp w) (txnData w) = decodePress (txnRsp w') (txnData w') :=
      (decodePress_congr_data hread _ _).trans (congrArg (decodePress · (txnData w')) hrsp)
    exact step_congr_decode s rest ((decode_of_press hr hl).trans (hclass.trans (decode_of_press hr' hl').symm))

end Sys2Proof.Machine
end

section
/-! The output record: its fields among its 24 bits and its calls (30_encoding.md R66), and the record of each class
that completes (R67). -/

namespace Sys2Proof.Machine

variable {i : Instr} {s t : State} {o : Output}

@[simp] theorem Output.pack_rdReq (o : Output) : o.pack.getLsbD 23 = o.rdReq := by
  simp only [Output.pack, BitVec.getLsbD_append]
  simp

@[simp] theorem Output.pack_err (o : Output) : o.pack.getLsbD 22 = o.err := by
  simp only [Output.pack, BitVec.getLsbD_append]
  simp

@[simp] theorem Output.pack_kind (o : Output) : o.pack.extractLsb' 20 2 = o.kind.bits := by
  unfold Output.pack
  rw [BitVec.extractLsb'_append_eq_of_le (by decide), BitVec.extractLsb'_append_eq_of_le (by decide),
    BitVec.extractLsb'_append_eq_of_le (by decide)]
  exact BitVec.extractLsb'_append_eq_right

@[simp] theorem Output.pack_index (o : Output) : o.pack.extractLsb' 16 4 = o.index := by
  unfold Output.pack
  rw [BitVec.extractLsb'_append_eq_of_le (by decide), BitVec.extractLsb'_append_eq_of_le (by decide)]
  exact BitVec.extractLsb'_append_eq_right

@[simp] theorem Output.pack_count (o : Output) : o.pack.extractLsb' 12 4 = o.count := by
  unfold Output.pack
  rw [BitVec.extractLsb'_append_eq_of_le (by decide)]
  exact BitVec.extractLsb'_append_eq_right

@[simp] theorem Output.pack_mask (o : Output) : o.pack.extractLsb' 0 12 = o.mask :=
  BitVec.extractLsb'_append_eq_right

theorem Kind.bits_injective : Function.Injective Kind.bits := by
  intro k l
  cases k <;> cases l <;> decide

theorem Kind.bits_ne_three (k : Kind) : k.bits ≠ 0b11#2 := by
  cases k <;> decide

/-- A record's kind is the one whose bits stand in the record. -/
theorem Output.kind_eq_iff (o : Output) (k : Kind) : o.kind = k ↔ o.pack.extractLsb' 20 2 = k.bits := by
  rw [Output.pack_kind, Kind.bits_injective.eq_iff]

theorem logError_mem_calls_iff : Call.logError ∈ o.calls ↔ o.err = true := by
  cases hk : o.kind <;> simp [Output.calls, Output.event, hk]

theorem resolve_mem_calls_iff {m : KeyMask} {k : BitVec 4} :
    Call.resolve m k ∈ o.calls ↔ o.kind = .single ∧ m = o.mask ∧ k = o.index := by
  cases hk : o.kind <;> simp [Output.calls, Output.event, hk]

theorem onMultiKey_mem_calls_iff {m : KeyMask} {c : BitVec 4} :
    Call.onMultiKey m c ∈ o.calls ↔ o.kind = .chord ∧ m = o.mask ∧ c = o.count := by
  cases hk : o.kind <;> simp [Output.calls, Output.event, hk]

/-- Settles O9: a completed transaction shows a record; the bits and the calls of a record, field by field. -/
theorem outputRecordLayoutAndConsumers : Obligations.OutputRecordLayoutAndConsumers :=
  ⟨fun _ _ _ h => (exec_next_keeps h).2.2, fun o =>
    ⟨o.pack_rdReq, o.pack_err, o.kind_eq_iff .none, o.kind_eq_iff .single, o.kind_eq_iff .chord, o.pack_index,
      o.pack_count, o.pack_mask, busRead_mem_calls_iff, logError_mem_calls_iff, fun _ _ => resolve_mem_calls_iff,
      fun _ _ => onMultiKey_mem_calls_iff⟩⟩

/-- Everything the record of a completed transaction can be: the zero record, unless the gate fired. -/
theorem exec_record_cases (h : exec i s = .next t) (ho : t.out = some o) :
    o = .zero ∨ (s.ready = true ∧ i.isPress = true ∧
      ((∃ d, i = .tickPrsOk d ∧ o = okRecord Config.tables d) ∨ (i = .tickPrsFail ∧ o = failRecord) ∨
        (i = .tickPrsBusy ∧ o = busyRecord))) := by
  obtain ⟨-, ⟨-, rfl⟩ | ⟨-, rfl⟩ | ⟨-, -, rfl⟩ | ⟨hready, a, o', hi, ha, ho', rfl⟩⟩ := exec_next_cases h <;>
    cases ho
  · exact .inl rfl
  · exact .inl rfl
  · exact .inl rfl
  · refine .inr ⟨hready, hi, ?_⟩
    cases i with
    | reset => cases hi
    | tickRel => cases hi
    | tickPrsOk d =>
      cases ha
      cases ho'
      exact .inl ⟨d, rfl, rfl⟩
    | tickPrsFail =>
      cases ha
      cases ho'
      exact .inr (.inl ⟨rfl, rfl⟩)
    | tickPrsBusy =>
      cases ha
      cases ho'
      exact .inr (.inr ⟨rfl, rfl⟩)
    | tickPrsRsv =>
      cases ha
      cases ho'

theorem dispatch_kind_ne_none (m : KeyMask) : (dispatch m).kind ≠ .none := by
  unfold dispatch
  split_ifs <;> simp

theorem dispatch_index_of_not_single {m : KeyMask} (h : (dispatch m).kind ≠ .single) : (dispatch m).index = 0 := by
  unfold dispatch at h ⊢
  split_ifs at h ⊢ with hone
  · exact absurd rfl h
  · rfl

/-- Settles O11: the record is zero unless the gate fired, and of the three records of a fire only a successful read's
has an event and only a failed read's has `ERR`. -/
theorem outputFieldsThatDoNotApplyAreZero : Obligations.OutputFieldsThatDoNotApplyAreZero := by
  intro i s t o h ho
  have hkind : o.pack.extractLsb' 20 2 ≠ 0b11#2 := o.pack_kind ▸ o.kind.bits_ne_three
  obtain rfl | ⟨hready, hi, hfire⟩ := exec_record_cases h ho
  · exact ⟨fun _ => by decide, by simp, by simp, by simp, by simp, hkind⟩
  · refine ⟨by simp [hready, hi], ?_⟩
    obtain ⟨d, rfl, rfl⟩ | ⟨rfl, rfl⟩ | ⟨rfl, rfl⟩ := hfire
    · have hevent : (okRecord Config.tables d).kind ≠ .none := dispatch_kind_ne_none _
      exact ⟨dispatch_index_of_not_single, fun hnone => absurd hnone hevent, fun herr => (nomatch herr),
        fun _ => ⟨d, rfl⟩, hkind⟩
    · exact ⟨fun _ => rfl, fun _ => ⟨rfl, rfl⟩, fun _ => rfl, fun hevent => absurd rfl hevent, hkind⟩
    · exact ⟨fun _ => rfl, fun _ => ⟨rfl, rfl⟩, fun herr => (nomatch herr), fun hevent => absurd rfl hevent, hkind⟩

end Sys2Proof.Machine
end

section
/-! Assembler text (30_encoding.md R71, R72): the pseudo-transactions, and what a disassembler prints of a word. -/

namespace Sys2Proof.Machine

variable {op : AsmOp} {n : Nat} {w : TxnWord}

/-- A well-formed line with an operand stands for its name's expansion. -/
theorem expandLine_of_wellFormed (h : (AsmLine.mk op (some n)).WellFormed) :
    expandLine ⟨op, some n⟩ = .ok (expansion op n) := by
  simp only [expandLine, show (AsmLine.mk op (some n)).refusal = none from h]

theorem wellFormed_of_data16 (hop : op.operandRule = .data16) (hn : n < 0x10000) :
    (AsmLine.mk op (some n)).WellFormed := by
  simp [AsmLine.WellFormed, AsmLine.refusal, hop, hn]

theorem wellFormed_of_repeatCount (hop : op.operandRule = .repeatCount) : (AsmLine.mk op (some n)).WellFormed := by
  simp [AsmLine.WellFormed, AsmLine.refusal, hop]

/-- Settles O6: the three lines are well formed, TAP's if its operand is a `<data16>`. -/
theorem pseudoTransactionsExpand : Obligations.PseudoTransactionsExpand := fun _ =>
  ⟨fun hn => expandLine_of_wellFormed (wellFormed_of_data16 rfl hn),
    expandLine_of_wellFormed (wellFormed_of_repeatCount rfl),
    expandLine_of_wellFormed (wellFormed_of_repeatCount rfl)⟩

/-- The five digits of a raw word are read back as the word. -/
theorem readDigits_rawWord (w : TxnWord) : readDigits 16 0 (hexDigits 5 w.toNat []) = some w.toNat := by
  have hlt : w.toNat < 16 ^ 5 := w.isLt
  rw [readDigits_hexDigits, Nat.zero_mul, Nat.zero_add, Nat.mod_eq_of_lt hlt]

theorem disassemble_raw_eq_none_iff : (disassemble w).2 = none ↔ w = encode (decode w) := by
  simp [disassemble]

theorem disassemble_raw_of_not_canonical (h : w ≠ encode (decode w)) : (disassemble w).2 = some w := if_neg h

theorem wordText_of_canonical (h : w = encode (decode w)) : wordText w = instrText (decode w) := by
  rw [wordText, if_pos h, List.append_nil]

theorem wordText_of_not_canonical (h : w ≠ encode (decode w)) :
    wordText w = instrText (decode w) ++ ' ' :: ';' :: ' ' :: '0' :: 'x' :: hexDigits 5 w.toNat [] := by
  rw [wordText, if_neg h]

/-- Settles O5: the comment of a word that is not canonical holds its five digits, with one space on each side of the
`;`. -/
theorem canonicalWordsAndDisassembly : Obligations.CanonicalWordsAndDisassembly := by
  refine ⟨rfl, rfl, fun d => BitVec.zero_or, rfl, rfl, rfl, fun w => ⟨rfl, disassemble_raw_eq_none_iff,
    disassemble_raw_of_not_canonical, wordText_of_canonical, fun h => ⟨1, 1, _, ?_, readDigits_rawWord w⟩⟩⟩
  rw [wordText_of_not_canonical h]
  simp

end Sys2Proof.Machine
end

section
/-! The gate's step relation beyond the shared lemmas (40_gate.md R103 to R107): what an ARMED gate answers to each
pressed class, and that a pressed sample leaves the gate DISARMED. -/

namespace Sys2Proof.Machine

variable {i : Instr} {s t : State} {o : Output}

/-- Only the reserved answer has no record. -/
theorem exists_fireRecord (hi : i.isPress = true) (hne : i ≠ .tickPrsRsv) :
    ∃ a o, busAnswerOf i = some a ∧ fireRecord Config.tables a = some o := by
  cases i with
  | reset => cases hi
  | tickRel => cases hi
  | tickPrsRsv => exact absurd rfl hne
  | _ => exact ⟨_, _, rfl, rfl⟩

/-- In an ARMED gate every pressed class but the reserved one fires: the gate is disarmed and the record says that the
read was issued (40_gate.md R103). -/
theorem exec_press_fires (hi : i.isPress = true) (hne : i ≠ .tickPrsRsv) (hf : s.fault = .none)
    (hr : s.ready = true) : ∃ o, o.rdReq = true ∧ exec i s = complete s.disarm o := by
  obtain ⟨a, o, ha, ho⟩ := exists_fireRecord hi hne
  exact ⟨o, fireRecord_rdReq ho, exec_press_of_armed ha ho hf hr⟩

/-- A pressed sample in an ARMED gate is `fire()` with the answer of its class (40_gate.md R103). -/
theorem exec_eq_fire_of_armed {a : BusAnswer} (ha : busAnswerOf i = some a) (hf : s.fault = .none)
    (hr : s.ready = true) : exec i s = fire Config.tables a s := by
  rw [exec_of_busAnswerOf ha, press, unlessFaulted_of_none hf, if_pos hr]

/-- An ARMED gate that reads the reserved response raises the fault (40_gate.md R107). -/
theorem exec_tickPrsRsv_of_armed (hf : s.fault = .none) (hr : s.ready = true) :
    exec .tickPrsRsv s = raiseIllegalResponse s :=
  exec_eq_fire_of_armed (a := .reserved) rfl hf hr

/-- The state that the fault leaves, field by field. -/
theorem raiseIllegalResponse_eq_fields (s : State) :
    raiseIllegalResponse s = .fault (.illegalResponse
      { ready := s.ready, fault := .illegalResponse, pending := s.pending, out := none }) := rfl

/-- `exec_press_of_disarmed`, field by field. -/
theorem exec_press_of_disarmed_fields (hi : i.isPress = true) (hf : s.fault = .none) (hr : s.ready = false) :
    exec i s = .next { ready := false, fault := s.fault, pending := s.pending, out := some .zero } := by
  rw [exec_press_of_disarmed hi hf hr, complete_eq_fields, hr]

/-- Whatever the gate was, a pressed sample that completes leaves it DISARMED. -/
theorem ready_after_press (h : exec i s = .next t) (hi : i.isPress = true) : t.ready = false := by
  cases hr : s.ready with
  | true => exact (ready_after_fire h hi hr).1
  | false => exact (ready_after_press_of_disarmed h hi hr).trans hr

end Sys2Proof.Machine
end

section
/-! The step as the flat pseudocode of 40_gate.md R108: the record's 24 bits as shifted fields, and each branch of the
pseudocode. -/

namespace Sys2Proof.Machine

variable {w : TxnWord} {tables : Tables} {ready : Bool}

/-- Bits put below others are those others shifted up, or-ed with the bits. -/
theorem setWidth_append_eq_shiftLeft_or {m n k : Nat} (x : BitVec m) (y : BitVec n) :
    (x ++ y).setWidth k = x.setWidth k <<< n ||| y.setWidth k := by
  ext j hj
  simp only [BitVec.getElem_setWidth, BitVec.getLsbD_append, BitVec.getElem_or, BitVec.getElem_shiftLeft]
  by_cases h : j < n
  · simp [h]
  · simp [h, BitVec.getLsbD_of_ge y j (by omega)]

/-- `pack` as shifted fields: the record of a successful fire has the bits of the flat pseudocode (30_encoding.md
R66). -/
theorem okRecord_pack (tables : Tables) (raw : RawReading) :
    (okRecord tables raw).pack = flatOkRecord (dispatch (translateRaw tables raw)) := by
  have hhead : (BitVec.ofBool true).setWidth 24 <<< 23 ||| (BitVec.ofBool false).setWidth 24 <<< 22 = 0x800000#24 := by
    decide
  rw [← BitVec.setWidth_eq (okRecord tables raw).pack, flatOkRecord, ← hhead, Output.pack]
  simp only [setWidth_append_eq_shiftLeft_or, BitVec.shiftLeft_or_distrib, ← BitVec.shiftLeft_add]
  rfl

theorem flatStep_of_rst (hr : txnRst w = true) : flatStep tables ready w = some (false, 0#24) := if_pos hr

theorem flatStep_of_lvl (hr : txnRst w = false) (hl : txnLvl w = true) :
    flatStep tables ready w = some (true, 0#24) := by
  rw [← Bool.not_eq_true] at hr
  exact (if_neg hr).trans (if_pos hl)

/-- The flat pseudocode of a pressed word in a DISARMED gate. -/
theorem flatStep_of_disarmed (hr : txnRst w = false) (hl : txnLvl w = false) :
    flatStep tables false w = some (false, 0#24) := by
  rw [← Bool.not_eq_true] at hr hl
  exact (if_neg hr).trans ((if_neg hl).trans (if_pos rfl))

/-- The flat pseudocode of a pressed word in an ARMED gate: its four cases of `RSP` are the four answers of the bus, and
`Fault(IllegalResponse)` is the answer without a record. -/
theorem flatStep_of_armed (hr : txnRst w = false) (hl : txnLvl w = false) :
    flatStep tables true w = (fireRecord tables (busRead w)).map fun o => (false, o.pack) := by
  have hrst : w.getLsbD 19 = false := hr
  have hlvl : w.getLsbD 18 = false := hl
  have hrsp : w.extractLsb' 16 2 = txnRsp w := rfl
  rw [flatStep, hrst, hlvl, hrsp]
  obtain h | h | h | h := twoBits_cases (txnRsp w)
  · rw [busRead_of_rsp_ok h, h, fireRecord, Option.map_some, okRecord_pack]
    rfl
  · rw [busRead_of_rsp_fail h, h]
    rfl
  · rw [busRead_of_rsp_busy h, h]
    rfl
  · rw [busRead_of_rsp_reserved h, h]
    rfl

/-- The class of a pressed word carries the word's own answer. -/
theorem busAnswerOf_decode (hr : txnRst w = false) (hl : txnLvl w = false) :
    busAnswerOf (decode w) = some (busRead w) := by
  rw [decode_of_press hr hl, busAnswerOf_decodePress]

/-- Settles O22: the branches of the pseudocode in its own order, RST, LVL, READY and the bus answer. -/
theorem stepAgreesWithTheFlatPseudocode : Obligations.StepAgreesWithTheFlatPseudocode := by
  refine fun s w rest hp => ⟨step_of_faulted, fun hf => ?_⟩
  have hf' : (s.setPending rest).fault = .none := hf
  rw [step_cons hp]
  cases hr : txnRst w with
  | true =>
    rw [flatStep_of_rst hr, decode_of_rst hr, exec_reset_of_unfaulted hf']
    exact ⟨.zero, by decide, by simp [complete_eq_fields, hf]⟩
  | false =>
    cases hl : txnLvl w with
    | true =>
      rw [flatStep_of_lvl hr hl, decode_of_lvl hr hl, exec_tickRel_of_unfaulted hf']
      exact ⟨.zero, by decide, by simp [complete_eq_fields, hf]⟩
    | false =>
      cases hready : s.ready with
      | false =>
        rw [flatStep_of_disarmed hr hl, exec_press_of_disarmed_fields (decode_isPress_iff.2 ⟨hr, hl⟩) hf' hready]
        exact ⟨.zero, by decide, by simp [hf]⟩
      | true =>
        rw [flatStep_of_armed hr hl, exec_eq_fire_of_armed (busAnswerOf_decode hr hl) hf' hready, fire_eq]
        cases fireRecord Config.tables (busRead w) with
        | some o => exact ⟨o, rfl, by simp [complete_eq_fields, hf]⟩
        | none => simp [raiseIllegalResponse_eq_fields, hready]

end Sys2Proof.Machine
end

section
/-! The gate over a run: `READY` is spent by a fire and earned by a TICK.REL (40_gate.md R109, R110). -/

namespace Sys2Proof.Machine

variable {i : Instr} {s t : State} {w : TxnWord} {rest : List TxnWord} {o : Output}

@[simp] theorem fires_nil : fires [] = 0 := rfl

@[simp] theorem fires_cons (i : Instr) (o : Output) (l : List (Instr × Output)) :
    fires ((i, o) :: l) = o.rdReq.toNat + fires l := by
  cases h : o.rdReq <;> simp [fires, h, Nat.add_comm]

/-- Without a TICK.REL, a transaction that completes fires or leaves the gate ARMED only if it found the gate ARMED, and
never does both. -/
theorem rdReq_add_ready_le (h : exec i s = .next t) (ho : t.out = some o) (hne : i ≠ .tickRel) :
    o.rdReq.toNat + t.ready.toNat ≤ s.ready.toNat := by
  obtain ⟨-, ⟨-, rfl⟩ | ⟨hrel, -⟩ | ⟨-, -, rfl⟩ | ⟨hready, a, o', -, -, -, rfl⟩⟩ := exec_next_cases h
  · cases ho
    exact Nat.zero_le _
  · exact absurd hrel hne
  · cases ho
    exact Nat.le_of_eq (Nat.zero_add _)
  · rw [hready]
    exact Bool.toNat_le o.rdReq

/-- A run without TICK.REL fires at most once if the gate starts ARMED, and never if it starts DISARMED. -/
theorem fires_trace_le_ready (k : Nat) (s : State) (h : ∀ w ∈ s.pending.take k, decode w ≠ .tickRel) :
    fires (trace k s) ≤ s.ready.toNat := by
  induction k generalizing s with
  | zero => exact Nat.zero_le _
  | succ k ih =>
    cases hp : s.pending with
    | nil =>
      rw [trace_of_no_pending _ hp]
      exact Nat.zero_le _
    | cons w rest =>
      rw [hp, List.take_succ_cons, List.forall_mem_cons] at h
      obtain ⟨hw, hrest⟩ := h
      obtain ⟨-, htrace⟩ | ⟨t, o, hexec, ho, hpending, -, htrace⟩ := trace_cons k hp
      · rw [htrace]
        exact Nat.zero_le _
      · have hhead : o.rdReq.toNat + t.ready.toNat ≤ s.ready.toNat :=
          rdReq_add_ready_le (s := s.setPending rest) hexec ho hw
        have htail : fires (trace k t) ≤ t.ready.toNat := ih t (by rwa [hpending])
        rw [htrace, fires_cons]
        omega

/-- Settles O54: `fires_trace_le_ready`, and `READY` is one bit. -/
theorem atMostOneFirePerPressedInterval : Obligations.AtMostOneFirePerPressedInterval :=
  fun k s h => (fires_trace_le_ready k s h).trans (Bool.toNat_le s.ready)

/-- A step that takes a TICK.REL arms the gate. -/
theorem step_tickRel (hp : s.pending = w :: rest) (hw : decode w = .tickRel) (hf : s.fault = .none) :
    ∃ t, step s = .next t ∧ t.ready = true ∧ t.fault = .none ∧ t.pending = rest := by
  refine ⟨(s.setPending rest).arm.setOut (some .zero), ?_, rfl, hf, rfl⟩
  rw [step_cons hp, hw]
  exact exec_tickRel_of_unfaulted hf

/-- Settles O55: the first word leaves the gate ARMED or DISARMED, and the second is answered accordingly. -/
theorem fireOnTheFirstPressAfterARelease : Obligations.FireOnTheFirstPressAfterARelease := by
  intro s w1 w2 rest hp hf hi
  refine ⟨fun hw1 hne => ?_, fun hw1 hw2 => ?_, fun t hi1 hstep => ?_⟩
  · obtain ⟨t, ht, hready, hfault, hpending⟩ := step_tickRel hp hw1 hf
    obtain ⟨o, ho, hexec⟩ := exec_press_fires (s := t.setPending rest) hi hne hfault hready
    exact ⟨t, _, o, ht, (step_cons hpending).trans hexec, rfl, ho⟩
  · obtain ⟨t, ht, hready, hfault, hpending⟩ := step_tickRel hp hw1 hf
    have hexec := exec_tickPrsRsv_of_armed (s := t.setPending rest) hfault hready
    exact ⟨t, _, ht, (step_cons hpending).trans (hw2 ▸ hexec)⟩
  · rw [step_cons hp] at hstep
    obtain ⟨hfault, hpending, -⟩ := exec_next_keeps hstep
    have hready : t.ready = false := ready_after_press hstep hi1
    have hexec := exec_press_of_disarmed (s := t.setPending rest) hi (hfault.trans hf) hready
    exact ⟨_, .zero, (step_cons hpending).trans hexec, rfl, rfl⟩

end Sys2Proof.Machine
end

section
/-! The source's own scenario (95_test_vectors.md V-S1): the reading 4. -/

namespace Sys2Proof.Machine

variable {tables : Tables}

/-- Under every pair of tables that R12 allows, the reading 4 is key 1 alone. -/
theorem translateRaw_four (h : tables.MeetsR12) : translateRaw tables 0x0004#16 = 0x002#12 := by
  obtain ⟨hremap, hone, hother⟩ := h
  have hremap' : remap tables 0x0004#16 = 0x0200#16 := (remapAmong_of_mem tables 2 keys (mem_keys 2)).trans hremap
  refine keyMask_ext fun i => ?_
  rw [translateRaw, matchKeys, keyMaskOf_getLsbD, hremap', lane, BitVec.and_comm,
    show 0x002#12 = 1#12 <<< (1 : Key).val from rfl, oneKey_getLsbD, decide_eq_decide]
  exact ⟨fun hi => by_contra fun hne => hi (hother i hne), fun hi => hi ▸ hone⟩

/-- The record of the reading 4 (40_gate.md R104, the example). -/
theorem okRecord_four_pack (h : tables.MeetsR12) : (okRecord tables 0x0004#16).pack = 0x911002#24 := by
  rw [okRecord_pack, translateRaw_four h]
  decide

end Sys2Proof.Machine
end

section
/-! The statements about one transaction of the gate (40_gate.md R101 to R107). -/

namespace Sys2Proof.Machine

variable {i : Instr} {s : State} {o : Output}

/-- Settles O13: the class by the word's bits, and the arming of an unfaulted state twice. -/
theorem releaseArmsTheGate : Obligations.ReleaseArmsTheGate :=
  ⟨fun _ => decode_of_lvl, fun _ hf =>
    ⟨_, rfl, exec_tickRel_of_unfaulted hf, exec_tickRel_of_unfaulted hf⟩⟩

/-- Settles O14: the four pressed classes answer alike in a DISARMED gate. -/
theorem pressWhileDisarmedDoesNothing : Obligations.PressWhileDisarmedDoesNothing :=
  ⟨fun _ hr hl => decode_isPress_iff.2 ⟨hr, hl⟩, fun _ _ => exec_press_of_disarmed⟩

/-- Settles O19: a fire with a record reads once, and the reserved answer raises before anything is written. -/
theorem everyFireReadsOnceAndDisarms : Obligations.EveryFireReadsOnceAndDisarms := by
  refine fun i s hi hf hr => ⟨?_, fun hne => ?_⟩
  · rintro rfl
    exact ⟨_, exec_tickPrsRsv_of_armed hf hr, rfl, rfl, rfl⟩
  · obtain ⟨o, ho, hexec⟩ := exec_press_fires hi hne hf hr
    refine ⟨_, o, hexec, rfl, rfl, ho, ?_⟩
    rw [count_busRead_calls, ho]
    rfl

/-- Settles O15: the row's words carry `DATA`, the fire reports the dispatched event, and the example is
`okRecord_four_pack`. -/
theorem successfulFireReportsTheEvent : Obligations.SuccessfulFireReportsTheEvent :=
  ⟨fun _ => (pressRow_iff_decode rfl (decodePress_eq_tickPrsOk_iff.trans (and_iff_left rfl))).1,
    okRecord_four_pack (Tables.ofFree_meetsR12 _ _), fun _ _ hf =>
    ⟨fun hr => ⟨dispatch_kind_ne_none _, exec_press_of_armed rfl rfl hf hr⟩, exec_press_of_disarmed_fields rfl hf⟩⟩

/-- After a fire the gate is DISARMED, so no pressed sample of the same press retries the read (90_conflicts.md C1). -/
theorem exec_press_after_fire (hi : i.isPress = true) (hf : s.fault = .none) :
    exec i (s.disarm.setOut (some o)) = .next ((s.disarm.setOut (some o)).setOut (some .zero)) :=
  exec_press_of_disarmed hi hf rfl

/-- Settles O16: the fire whose read fails, and no retry after it. -/
theorem failedFireReportsAnError : Obligations.FailedFireReportsAnError :=
  ⟨fun _ => (pressRow_iff_decode rfl decodePress_eq_tickPrsFail_iff).1, fun _ hf =>
    ⟨fun hr => ⟨_, failRecord, by decide, rfl, rfl, exec_press_of_armed rfl rfl hf hr,
      fun _ hi => exec_press_after_fire hi hf⟩, exec_press_of_disarmed_fields rfl hf⟩⟩

/-- Settles O17: the fire whose read is skipped, and no retry after it. -/
theorem busyFireIsSilent : Obligations.BusyFireIsSilent :=
  ⟨fun _ => (pressRow_iff_decode rfl decodePress_eq_tickPrsBusy_iff).1, fun _ hf =>
    ⟨fun hr => ⟨_, busyRecord, by decide, rfl, rfl, rfl, exec_press_of_armed rfl rfl hf hr,
      fun _ hi => exec_press_after_fire hi hf⟩, exec_press_of_disarmed_fields rfl hf⟩⟩

/-- Settles O18: the reserved response is read only by an ARMED gate. -/
theorem reservedResponseFaultsWhenRead : Obligations.ReservedResponseFaultsWhenRead := by
  refine ⟨fun w => (pressRow_iff_decode rfl decodePress_eq_tickPrsRsv_iff).1, fun s hf =>
    ⟨fun hr => ?_, exec_press_of_disarmed_fields rfl hf⟩⟩
  rw [exec_tickPrsRsv_of_armed hf hr, raiseIllegalResponse_eq_fields, hr]

end Sys2Proof.Machine
end

section
/-! The translator, one lemma per function (41_translator.md): what `REMAP` answers to a one-hot code and to any other
value, which readings are no one-hot code, and the lanes that set the bits of the KeyMask. -/

namespace Sys2Proof.Machine

variable {t : Tables} {raw : RawReading}

theorem remap_oneHot (t : Tables) (k : Key) : remap t (1#16 <<< k.val) = t.onehotMap k :=
  remapAmong_of_mem t k keys (mem_keys k)

theorem remap_of_not_oneHot (t : Tables) (h : ∀ k : Key, raw ≠ 1#16 <<< k.val) : remap t raw = raw :=
  remapAmong_of_not_oneHot t raw keys fun k _ => h k

/-- The one set bit of a one-hot code is its bit position. -/
theorem eq_of_oneHot_getLsbD {k : Key} {j : Nat} (h : (1#16 <<< k.val).getLsbD j = true) : j = k.val := by
  simp only [BitVec.getLsbD_shiftLeft, BitVec.getLsbD_one, Bool.and_eq_true, Bool.not_eq_true',
    decide_eq_true_eq, decide_eq_false_iff_not] at h
  omega

/-- The one-hot codes end at bit 11 (41_translator.md R121). -/
theorem not_oneHot_of_high_bit {j : Nat} (hj : 12 ≤ j) (h : raw.getLsbD j = true) (k : Key) :
    raw ≠ 1#16 <<< k.val := by
  rintro rfl
  exact Nat.not_le_of_lt k.isLt (eq_of_oneHot_getLsbD h ▸ hj)

theorem not_oneHot_of_two_bits {i j : Nat} (hij : i ≠ j) (hi : raw.getLsbD i = true) (hj : raw.getLsbD j = true)
    (k : Key) : raw ≠ 1#16 <<< k.val := by
  rintro rfl
  exact hij ((eq_of_oneHot_getLsbD hi).trans (eq_of_oneHot_getLsbD hj).symm)

theorem lane_congr {v v' : RawReading} {i : Key} (h : v &&& t.keyvals i = v' &&& t.keyvals i) :
    lane t v i = lane t v' i := by
  rw [lane, lane, h]

theorem matchKeys_getLsbD (t : Tables) (v : RawReading) (i : Key) : (matchKeys t v).getLsbD i.val = lane t v i :=
  keyMaskOf_getLsbD (lane t v) i

theorem matchKeys_getLsbD_iff (t : Tables) (v : RawReading) (i : Key) :
    (matchKeys t v).getLsbD i.val = true ↔ v &&& t.keyvals i ≠ 0 := by
  rw [matchKeys_getLsbD, lane, decide_eq_true_iff]

/-- The KeyMask reads of its argument only what meets the `KEYVALS` entries. -/
theorem matchKeys_congr {v v' : RawReading} (h : ∀ i : Key, v &&& t.keyvals i = v' &&& t.keyvals i) :
    matchKeys t v = matchKeys t v' :=
  keyMask_ext fun i => by rw [matchKeys_getLsbD, matchKeys_getLsbD, lane_congr (h i)]

theorem matchKeys_zero (t : Tables) : matchKeys t 0#16 = 0#12 := by
  refine keyMask_ext fun i => ?_
  rw [BitVec.getLsbD_zero, ← Bool.not_eq_true, matchKeys_getLsbD_iff, not_not]
  exact BitVec.zero_and

theorem translateRaw_of_not_oneHot (t : Tables) (h : ∀ k : Key, raw ≠ 1#16 <<< k.val) :
    translateRaw t raw = matchKeys t raw :=
  congrArg (matchKeys t) (remap_of_not_oneHot t h)

/-- A word with no bit above 11 keeps all its bits under the mask of the low 12. -/
theorem and_low12_eq_self {v : BitVec 16} (h : ∀ b, 12 ≤ b → v.getLsbD b = false) : 0x0FFF#16 &&& v = v := by
  have hlow : 0x0FFF#16 = (BitVec.allOnes 12).setWidth 16 := by decide
  refine BitVec.eq_of_getLsbD_eq fun b hb => ?_
  rw [hlow, BitVec.getLsbD_and, BitVec.getLsbD_setWidth, BitVec.getLsbD_allOnes]
  by_cases hb12 : b < 12
  · simp [hb, hb12]
  · simp [h b (Nat.le_of_not_lt hb12)]

end Sys2Proof.Machine
end

section
/-! The statements about the translator (41_translator.md). -/

namespace Sys2Proof.Machine

/-- Settles O35: the search finds a code's own entry, and nothing for any other value. -/
theorem remapLooksUpOneHotCodes : Obligations.RemapLooksUpOneHotCodes :=
  ⟨remap_oneHot, fun t _ => remap_of_not_oneHot t,
    (remap_oneHot Config.tables 2).trans (Tables.ofFree_onehotMap_two _ _)⟩

/-- Settles O36: the match of the remapped reading, and the source's reading 4 under R12. -/
theorem translateSetsTheMatchingLanes : Obligations.TranslateSetsTheMatchingLanes :=
  ⟨fun t raw => matchKeys_getLsbD_iff t (remap t raw), translateRaw_four (Tables.ofFree_meetsR12 _ _)⟩

/-- Settles O37: 0 is no one-hot code, and meets no `KEYVALS` entry. -/
theorem translateOfZeroIsEmpty : Obligations.TranslateOfZeroIsEmpty := by
  intro t
  have hzero : ∀ k : Key, 0x0000#16 ≠ 1#16 <<< k.val := by decide
  rw [translateRaw_of_not_oneHot t hzero, matchKeys_zero]

/-- Settles O38: the high bit rules out the one-hot codes, and an entry within the low 12 bits meets only those. -/
theorem highBitsAreNotMasked : Obligations.HighBitsAreNotMasked := by
  intro t raw j hj hbit
  have hcode : ∀ k : Key, raw ≠ 1#16 <<< k.val := not_oneHot_of_high_bit hj hbit
  refine ⟨remap_of_not_oneHot t hcode, translateRaw_of_not_oneHot t hcode, fun i hlow => lane_congr ?_⟩
  rw [BitVec.and_assoc, and_low12_eq_self hlow]

/-- Settles O39: two set bits rule out the one-hot codes, so the match is that of the reading itself. -/
theorem multiBitReadingsAreMatchedAsTheyAre : Obligations.MultiBitReadingsAreMatchedAsTheyAre := by
  refine ⟨fun t raw j k hne hj hk i => ?_, by decide, by decide⟩
  rw [translateRaw_of_not_oneHot t (not_oneHot_of_two_bits hne hj hk), matchKeys_getLsbD_iff]

/-- Settles O40: bits that meet no entry leave every lane as it was, and a reading that is no one-hot code is matched as
it is. -/
theorem uncoveredBitsContributeNothing : Obligations.UncoveredBitsContributeNothing := by
  refine ⟨fun t v c huncovered => matchKeys_congr fun i => ?_, fun _ _ => rfl, fun t raw i hcode hcovered => ?_⟩
  · rw [BitVec.and_or_distrib_right, huncovered i]
    exact BitVec.or_zero
  · rw [translateRaw_of_not_oneHot t hcode]
    exact (matchKeys_getLsbD_iff t raw i).2 hcovered

/-- Settles O42: an ARMED gate answers with `okRecord`, which reads the tables and the reading alone. -/
theorem sameReadingGivesTheSameRecord : Obligations.SameReadingGivesTheSameRecord :=
  fun _ _ _ hf hr hf' hr' =>
    ⟨_, _, exec_press_of_armed rfl rfl hf hr, exec_press_of_armed rfl rfl hf' hr', rfl⟩

end Sys2Proof.Machine
end

section
/-! The dispatcher, one lemma per function (42_dispatcher.md R150 to R152): the count of set bits, the masks of one key,
and the event of either branch. -/

namespace Sys2Proof.Machine

variable {m : KeyMask}

/-- `POPCOUNT12` counts without wrapping, since 4 bits hold 12 (42_dispatcher.md R150). -/
theorem popcount12_toNat (m : KeyMask) : (popcount12 m).toNat = numSetBits m := by
  have hset : (Finset.univ.filter fun i : Key => m.getLsbD i.val = true) =
      (keys.filter fun i => m.getLsbD i.val).toFinset := by
    ext i
    simp [mem_keys]
  have hnodup : (keys.filter fun i => m.getLsbD i.val).Nodup := List.Nodup.filter _ (by decide)
  rw [numSetBits, hset, List.toFinset_card_of_nodup hnodup, popcount12, popcountAmong m keys 0#4 (by decide)]
  exact Nat.zero_add _

theorem numSetBits_le (m : KeyMask) : numSetBits m ≤ 12 :=
  (Finset.card_le_univ _).trans_eq (Fintype.card_fin 12)

theorem popcount12_eq_ofNat (m : KeyMask) : popcount12 m = BitVec.ofNat 4 (numSetBits m) := by
  rw [← popcount12_toNat, BitVec.ofNat_toNat, BitVec.setWidth_eq]

theorem popcount12_eq_one_iff : popcount12 m = 1#4 ↔ numSetBits m = 1 := by
  rw [← popcount12_toNat, ← BitVec.toNat_inj]
  rfl

/-- A mask with one set bit is the mask of that key. -/
theorem exists_oneKey_of_numSetBits_eq_one (h : numSetBits m = 1) : ∃ i : Key, m = 1#12 <<< i.val := by
  obtain ⟨i, hi⟩ := Finset.card_eq_one.1 h
  refine ⟨i, keyMask_ext fun j => ?_⟩
  have hbit : m.getLsbD j.val = true ↔ j = i := by
    rw [← Finset.mem_singleton (a := i), ← hi, Finset.mem_filter_univ]
  rw [oneKey_getLsbD, Bool.eq_iff_iff, hbit, decide_eq_true_iff]

/-- `LOWBIT12` of one key's mask is the key's number (42_dispatcher.md R151). -/
theorem lowbit12_oneKey_toNat (i : Key) : (lowbit12 (1#12 <<< i.val)).toNat = i.val := by
  have hset : (1#12 <<< i.val).getLsbD i.val = true := by rw [oneKey_getLsbD, decide_eq_true rfl]
  have honly : ∀ j ∈ keys, (1#12 <<< i.val).getLsbD j.val = true → j = i := fun j _ hj => by
    rwa [oneKey_getLsbD, decide_eq_true_iff] at hj
  rw [lowbit12, lowbitAmong_of_unique _ keys i (mem_keys i) hset honly, BitVec.toNat_ofNat]
  exact Nat.mod_eq_of_lt (i.isLt.trans (by decide))

theorem dispatch_of_one (h : numSetBits m = 1) : dispatch m = ⟨.single, m, 1#4, lowbit12 m⟩ :=
  if_pos (popcount12_eq_one_iff.2 h)

theorem dispatch_of_not_one (h : numSetBits m ≠ 1) : dispatch m = ⟨.chord, m, popcount12 m, 0#4⟩ :=
  if_neg (popcount12_eq_one_iff.not.2 h)

end Sys2Proof.Machine
end

section
/-! The event a record presents: how many, and the calls of a successful fire (42_dispatcher.md R153 to R156). -/

namespace Sys2Proof.Machine

variable {tables : Tables} {raw : RawReading}

theorem Output.event_length (o : Output) : o.event.length = if o.kind = .none then 0 else 1 := by
  cases hk : o.kind <;> simp [Output.event, hk]

/-- A successful fire of one key reads the bus and calls the resolver (42_dispatcher.md R153). -/
theorem okRecord_calls_of_one (h : numSetBits (translateRaw tables raw) = 1) :
    (okRecord tables raw).calls =
      [.busRead, .resolve (translateRaw tables raw) (lowbit12 (translateRaw tables raw))] := by
  rw [okRecord, dispatch_of_one h]
  rfl

/-- A successful fire of no key or of several reads the bus and calls the chord handler (42_dispatcher.md R154). -/
theorem okRecord_calls_of_not_one (h : numSetBits (translateRaw tables raw) ≠ 1) :
    (okRecord tables raw).calls =
      [.busRead, .onMultiKey (translateRaw tables raw) (popcount12 (translateRaw tables raw))] := by
  rw [okRecord, dispatch_of_not_one h]
  rfl

/-- The record of a successful fire whose reading matches no key (42_dispatcher.md R155). -/
theorem okRecord_of_empty (h : translateRaw tables raw = 0) :
    okRecord tables raw = { Output.zero with rdReq := true, kind := .chord } := by
  rw [okRecord, h, dispatch_of_not_one (by decide)]
  rfl

/-- Only a pressed sample is a TICK.PRS.OK. -/
theorem isPress_of_isPrsOk {i : Instr} (h : isPrsOk i = true) : i.isPress = true := by
  cases i with
  | tickPrsOk => rfl
  | _ => cases h

end Sys2Proof.Machine
end

section
/-! The statements about the dispatcher (42_dispatcher.md). -/

namespace Sys2Proof.Machine

/-- Settles O47: the 4-bit loop is the size of the set of set bits, a subset of the twelve keys. -/
theorem popcountIsExact : Obligations.PopcountIsExact :=
  fun m => ⟨popcount12_toNat m, numSetBits_le m⟩

/-- Settles O49: the dispatcher's test is that one bit is set, and its count is exact. -/
theorem dispatchDecidesByPopcount : Obligations.DispatchDecidesByPopcount :=
  fun m => ⟨dispatch_of_one, fun h => popcount12_eq_ofNat m ▸ dispatch_of_not_one h⟩

/-- Settles O50: the fire's record is `okRecord`, whose calls follow the number of set bits; a SINGLE's key is the one
its mask is the mask of. -/
theorem eventGoesToExactlyOneConsumer : Obligations.EventGoesToExactlyOneConsumer := by
  refine fun raw s hf hr => ⟨_, _, exec_press_of_armed rfl rfl hf hr, rfl, fun hone => ?_, fun hnot => ?_⟩
  · obtain ⟨i, hi⟩ := exists_oneKey_of_numSetBits_eq_one hone
    refine ⟨_, ?_, okRecord_calls_of_one hone⟩
    rw [hi, lowbit12_oneKey_toNat]
  · exact ⟨_, popcount12_toNat _, okRecord_calls_of_not_one hnot⟩

/-- Settles O52: of the records a transaction can show, only a successful fire's has an event, and the zero record is
shown only where the gate did not fire. -/
theorem oneEventPerSuccessfulFire : Obligations.OneEventPerSuccessfulFire := by
  intro i s t h
  obtain ⟨-, -, o, ho⟩ := exec_next_keeps h
  refine ⟨o, ho, ?_⟩
  obtain rfl | ⟨hready, -, ⟨d, rfl, rfl⟩ | ⟨rfl, rfl⟩ | ⟨rfl, rfl⟩⟩ := exec_record_cases h ho
  · have hno : ¬ (isPrsOk i = true ∧ s.ready = true) := fun ⟨hok, hready⟩ =>
      Bool.false_ne_true ((rdReq_iff_fires h ho).2 ⟨hready, isPress_of_isPrsOk hok⟩)
    rw [if_neg hno]
    rfl
  · have hevent : (okRecord Config.tables d).kind ≠ .none := dispatch_kind_ne_none _
    rw [Output.event_length, if_neg hevent, if_pos ⟨rfl, hready⟩]
  · rfl
  · rfl

/-- Settles O48: a mask with one bit set is the mask of one key, whose number `LOWBIT12` finds. -/
theorem lowbitNamesTheSetBit : Obligations.LowbitNamesTheSetBit := by
  intro m hm
  obtain ⟨i, rfl⟩ := exists_oneKey_of_numSetBits_eq_one (popcount12_eq_one_iff.1 hm)
  rw [lowbit12_oneKey_toNat]
  refine ⟨i.isLt, ?_, fun j hj => ?_, rfl⟩
  · rw [oneKey_getLsbD, decide_eq_true rfl]
  · rw [oneKey_getLsbD ⟨j, hj.trans i.isLt⟩ i, decide_eq_false (Fin.ne_of_lt hj)]

/-- Settles O51: an empty mask has no set bit, so the fire's record is a CHORD of zeros. -/
theorem emptyMaskIsAChord : Obligations.EmptyMaskIsAChord := by
  intro raw s hempty hf hr
  have hexec : exec (.tickPrsOk raw) s = complete s.disarm (okRecord Config.tables raw) :=
    exec_press_of_armed rfl rfl hf hr
  rw [okRecord_of_empty hempty] at hexec
  exact ⟨_, _, hexec, rfl, rfl, rfl, rfl, by decide⟩

end Sys2Proof.Machine
end

section
/-! The statements about errors and the fault (60_exceptions.md R201 to R203, R207). -/

namespace Sys2Proof.Machine

variable {i : Instr} {s left : State}

/-- The fault has one cause, and that cause leaves one state (60_exceptions.md R203). -/
theorem exec_illegalResponse_iff : exec i s = .fault (.illegalResponse left) ↔
    i = .tickPrsRsv ∧ s.fault = .none ∧ s.ready = true ∧ left = faultedState s := by
  refine ⟨exec_illegalResponse_cases, ?_⟩
  rintro ⟨rfl, hf, hr, rfl⟩
  exact exec_tickPrsRsv_of_armed hf hr

/-- The state that the fault leaves is faulted. -/
theorem fault_of_exec_illegalResponse (h : exec i s = .fault (.illegalResponse left)) :
    left.fault = .illegalResponse := by
  obtain ⟨-, -, -, rfl⟩ := exec_illegalResponse_cases h
  exact faultedState_fault s

/-- Settles O20: each of the three answers has a record, so the ARMED gate completes with it and is DISARMED; only a
successful read's record has an event. -/
theorem errorClassesHaveTheirOutcomes : Obligations.ErrorClassesHaveTheirOutcomes := by
  intro s hf hr
  have hfail : exec .tickPrsFail s = complete s.disarm failRecord := exec_press_of_armed rfl rfl hf hr
  have hbusy : exec .tickPrsBusy s = complete s.disarm busyRecord := exec_press_of_armed rfl rfl hf hr
  have hok : ∀ raw, exec (.tickPrsOk raw) s = complete s.disarm (okRecord Config.tables raw) :=
    fun _ => exec_press_of_armed rfl rfl hf hr
  refine ⟨?_, ?_, fun raw => ?_⟩
  · exact ⟨_, failRecord, hfail, rfl, rfl, rfl, rfl, rfl, rfl, rfl, rfl⟩
  · exact ⟨_, busyRecord, hbusy, rfl, rfl, rfl, rfl, rfl⟩
  · exact ⟨_, okRecord Config.tables raw, hok raw, rfl, rfl, rfl, rfl, dispatch_kind_ne_none _⟩

/-- Settles O25: the cause is `exec_illegalResponse_iff`, and the state left is faulted, which no step and no
instruction leaves. -/
theorem illegalResponseIsPreciseAndFinal : Obligations.IllegalResponseIsPreciseAndFinal := by
  refine fun i s left => ⟨exec_illegalResponse_iff, fun h => ?_⟩
  have hfault : left.fault ≠ .none := by
    rw [fault_of_exec_illegalResponse h]
    decide
  exact ⟨step_of_faulted hfault, exec_of_faulted hfault⟩

end Sys2Proof.Machine
end

section
/-! The statement about the reset transaction (70_reset_and_hazards.md R240). -/

namespace Sys2Proof.Machine

/-- Settles O12: the class by the word's `RST` bit, the disarming of an unfaulted state field by field, and the stop of
a faulted one. -/
theorem resetDisarmsTheGate : Obligations.ResetDisarmsTheGate := by
  refine ⟨fun _ => decode_of_rst, fun s => ⟨fun hf => ?_, fun hf => exec_of_faulted hf .reset⟩⟩
  rw [exec_reset_of_unfaulted hf, complete_eq_fields, State.disarm_ready, State.disarm_fault, State.disarm_pending]

end Sys2Proof.Machine
end

section
/-! A decoded word by its fields, and the round trip with the canonical word (30_encoding.md R65, R72). -/

namespace Sys2Proof.Machine

variable {w : TxnWord}

/-- A word is told by its four fields. -/
theorem eq_fields_iff {rst lvl : Bool} {rsp : BitVec 2} {data : RawReading} :
    w = BitVec.ofBool rst ++ BitVec.ofBool lvl ++ rsp ++ data ↔
      txnRst w = rst ∧ txnLvl w = lvl ∧ txnRsp w = rsp ∧ txnData w = data := by
  constructor
  · rintro rfl
    exact fields_of_txnWord rst lvl rsp data
  · rintro ⟨rfl, rfl, rfl, rfl⟩
    exact txnWord_eq_fields w

/-- The canonical word of a TICK.PRS.OK is its `DATA` below four zero bits. -/
theorem encode_tickPrsOk_eq_fields (d : RawReading) :
    encode (.tickPrsOk d) = BitVec.ofBool false ++ BitVec.ofBool false ++ 0b00#2 ++ d := by
  have hhead : BitVec.ofBool false ++ BitVec.ofBool false ++ 0b00#2 = 0#(20 - 16) := by decide
  rw [hhead, encode, BitVec.setWidth_eq_append (by decide)]
  exact BitVec.zero_or

theorem decode_eq_tickPrsOk_iff (d : RawReading) : decode w = .tickPrsOk d ↔ w = encode (.tickPrsOk d) := by
  rw [decode_eq_press_iff rfl, decodePress_eq_tickPrsOk_iff, encode_tickPrsOk_eq_fields, eq_fields_iff, and_assoc]

/-- Settles O3: the classes without an operand read what their row's mask reads, and TICK.PRS.OK reads the whole
word. -/
theorem decodeAndEncodeAgree : Obligations.DecodeAndEncodeAgree := by
  intro w i
  obtain ⟨hreset, htickRel, -, hfail, hbusy, hrsv⟩ := sixRowsPartitionTheWords w
  cases i with
  | reset => exact hreset.symm
  | tickRel => exact htickRel.symm
  | tickPrsOk d =>
    have hall : readMask (.tickPrsOk d) = BitVec.allOnes 20 := rfl
    rw [decode_eq_tickPrsOk_iff, hall, BitVec.and_allOnes]
  | tickPrsFail => exact hfail.symm
  | tickPrsBusy => exact hbusy.symm
  | tickPrsRsv => exact hrsv.symm

end Sys2Proof.Machine
end

section
/-! The invariant of the state: the records of each class are canonical (30_encoding.md R67), and what a step leaves
beside them. -/

namespace Sys2Proof.Machine

variable {i : Instr} {s t : State} {o : Output}

theorem Output.zero_canonical : Output.zero.Canonical := ⟨fun h => (nomatch h), rfl, rfl, rfl⟩

theorem failRecord_canonical : failRecord.Canonical := ⟨fun _ => ⟨rfl, rfl⟩, rfl, rfl, rfl⟩

theorem busyRecord_canonical : busyRecord.Canonical := ⟨fun h => (nomatch h), rfl, rfl, rfl⟩

/-- A SINGLE names its one key and a CHORD counts its keys, because the dispatcher decides by the count of set bits. -/
theorem okRecord_canonical (tables : Tables) (raw : RawReading) : (okRecord tables raw).Canonical := by
  by_cases hone : numSetBits (translateRaw tables raw) = 1
  · obtain ⟨hkey, -, -, hmask⟩ := lowbitNamesTheSetBit _ (popcount12_eq_one_iff.2 hone)
    rw [okRecord, dispatch_of_one hone]
    exact ⟨fun h => (nomatch h), rfl, hkey, rfl, hmask⟩
  · rw [okRecord, dispatch_of_not_one hone]
    exact ⟨fun h => (nomatch h), rfl, rfl, popcount12_eq_one_iff.not.2 hone, popcount12_toNat _⟩

theorem exec_record_canonical (h : exec i s = .next t) (ho : t.out = some o) : o.Canonical := by
  obtain rfl | ⟨-, -, ⟨d, -, rfl⟩ | ⟨-, rfl⟩ | ⟨-, rfl⟩⟩ := exec_record_cases h ho
  · exact Output.zero_canonical
  · exact okRecord_canonical Config.tables d
  · exact failRecord_canonical
  · exact busyRecord_canonical

/-- Settles O33: the reset state shows no record and carries no fault mark. -/
theorem resetMeetsTheInvariant : Obligations.ResetMeetsTheInvariant :=
  ⟨fun _ h => (nomatch h), fun h => (nomatch h)⟩

/-- Every completed transaction leaves the invariant: a record with `RD_REQ` is a fire's, which disarms. -/
theorem inv_of_exec_next (h : exec i s = .next t) : t.Inv := by
  refine ⟨fun o ho => ⟨exec_record_canonical h ho, fun hread => ?_⟩, fun hfault => ?_⟩
  · obtain ⟨-, hi⟩ := (rdReq_iff_fires h ho).1 hread
    exact ready_after_press h hi
  · rw [(exec_next_keeps h).1, (exec_next_cases h).1] at hfault
    cases hfault

/-- A state without a record and without the fault mark meets the invariant. -/
theorem inv_of_no_record (ho : s.out = none) (hf : s.fault = .none) : s.Inv := by
  refine ⟨fun o h => ?_, fun h => ?_⟩
  · rw [ho] at h
    cases h
  · rw [hf] at h
    cases h

/-- The fault leaves `READY = 1` and an empty port (60_exceptions.md R203). -/
theorem inv_faultedState (hr : s.ready = true) : (faultedState s).Inv :=
  ⟨fun _ h => (nomatch h), fun _ => ⟨hr, rfl⟩⟩

/-- Settles O34: a step waits, completes a transaction, or raises the fault, and each of the three leaves the
invariant. -/
theorem everyStepKeepsTheInvariant : Obligations.EveryStepKeepsTheInvariant := by
  refine fun s _ => ⟨fun t h => ?_, fun left h => ?_⟩
  · obtain ⟨hf, ⟨-, rfl⟩ | ⟨w, rest, -, hexec⟩⟩ := step_next_cases h
    · exact inv_of_no_record rfl hf
    · exact inv_of_exec_next hexec
  · obtain ⟨-, hr, w, rest, -, -, rfl⟩ := step_illegalResponse_cases h
    exact inv_faultedState hr

end Sys2Proof.Machine
end

section
/-! Runs: each transaction of a run was completed by some state, the transactions come in the host's order, and when
none of them stops the block (20_memory.md R49, 60_exceptions.md R215). -/

namespace Sys2Proof.Machine

variable {i : Instr} {s t : State} {o : Output}

/-- Whatever stands in a run is a transaction that completed with that record. -/
theorem exists_exec_of_mem_trace {k : Nat} {p : Instr × Output} (h : p ∈ trace k s) :
    ∃ s' t, exec p.1 s' = .next t ∧ t.out = some p.2 := by
  induction k generalizing s with
  | zero => cases h
  | succ k ih =>
    cases hp : s.pending with
    | nil =>
      rw [trace_of_no_pending _ hp] at h
      cases h
    | cons w rest =>
      obtain ⟨-, htrace⟩ | ⟨t, o, hexec, ho, -, -, htrace⟩ := trace_cons k hp <;> rw [htrace] at h
      · cases h
      · obtain rfl | htail := List.mem_cons.1 h
        · exact ⟨_, t, hexec, ho⟩
        · exact ih htail

/-- A record has an event exactly if it is that of a TICK.PRS.OK that fired (42_dispatcher.md R157). -/
theorem kind_ne_none_iff (h : exec i s = .next t) (ho : t.out = some o) :
    o.kind ≠ .none ↔ isPrsOk i = true ∧ o.rdReq = true := by
  obtain rfl | ⟨-, -, ⟨d, rfl, rfl⟩ | ⟨rfl, rfl⟩ | ⟨rfl, rfl⟩⟩ := exec_record_cases h ho
  · simp
  · exact iff_of_true (dispatch_kind_ne_none _) ⟨rfl, rfl⟩
  · exact iff_of_false (fun hkind => hkind rfl) fun hok => (nomatch hok.1)
  · exact iff_of_false (fun hkind => hkind rfl) fun hok => (nomatch hok.1)

/-- Settles O59: `kind_ne_none_iff`, for every transaction of the run. -/
theorem eventsCountTheSuccessfulFires : Obligations.EventsCountTheSuccessfulFires := by
  refine fun k s => List.countP_congr fun p hp => ?_
  obtain ⟨s', t, hexec, ho⟩ := exists_exec_of_mem_trace hp
  rw [decide_eq_true_iff, Bool.and_eq_true, kind_ne_none_iff hexec ho]

/-- Settles O53: a run takes the first pending word or stops at it. -/
theorem transactionsCompleteInOrder : Obligations.TransactionsCompleteInOrder := by
  intro k
  induction k with
  | zero => exact fun s => List.nil_prefix
  | succ k ih =>
    intro s
    cases hp : s.pending with
    | nil =>
      rw [trace_of_no_pending _ hp]
      exact List.nil_prefix
    | cons w rest =>
      obtain ⟨-, htrace⟩ | ⟨t, o, -, -, hpending, -, htrace⟩ := trace_cons k hp <;> rw [htrace]
      · exact List.nil_prefix
      · rw [List.map_cons, List.map_cons, List.cons_prefix_cons, ← hpending]
        exact ⟨rfl, ih t⟩

/-- In an unfaulted block every transaction completes, but for the reserved response read by an ARMED gate. -/
theorem exec_completes (hf : s.fault = .none) (h : i ≠ .tickPrsRsv ∨ s.ready = false) :
    ∃ t, exec i s = .next t := by
  cases hi : i.isPress with
  | false =>
    obtain rfl | rfl := eq_reset_or_eq_tickRel_of_not_isPress hi
    · exact ⟨_, exec_reset_of_unfaulted hf⟩
    · exact ⟨_, exec_tickRel_of_unfaulted hf⟩
  | true =>
    cases hr : s.ready with
    | false => exact ⟨_, exec_press_of_disarmed hi hf hr⟩
    | true =>
      have hne : i ≠ .tickPrsRsv := h.resolve_right (by simp [hr])
      obtain ⟨o, -, hexec⟩ := exec_press_fires hi hne hf hr
      exact ⟨_, hexec⟩

/-- If a property of the state lets the next word complete and holds again afterwards, a run completes every word. -/
theorem trace_completes {P : State → Prop}
    (hnext : ∀ s w rest, P s → s.pending = w :: rest →
      ∃ t, exec (decode w) (s.setPending rest) = .next t ∧ P t)
    (s : State) (hs : P s) : (trace s.pending.length s).map Prod.fst = s.pending.map decode := by
  induction hp : s.pending generalizing s with
  | nil => rfl
  | cons w rest ih =>
    obtain ⟨t, hexec, ht⟩ := hnext s w rest hs hp
    obtain ⟨-, hpending, o, ho⟩ := exec_next_keeps hexec
    rw [List.length_cons, trace_succ _ ((step_cons hp).trans hexec), takenIn_cons hp ho]
    exact congrArg _ (ih t ht hpending)

end Sys2Proof.Machine
end

section
/-! The block never stops while the transport keeps its duty (60_exceptions.md section 7). -/

namespace Sys2Proof.Machine

variable {s t : State} {w : TxnWord} {rest : List TxnWord}

/-- What keeps the block running: it has not faulted, and no reserved response is to come. -/
def State.KeepsRunning (s : State) : Prop := s.fault = .none ∧ s.NoReservedResponse

/-- The next word completes, and what is to come is served as well. -/
theorem State.KeepsRunning.exec_next (hs : s.KeepsRunning) (hp : s.pending = w :: rest) :
    ∃ t, exec (decode w) (s.setPending rest) = .next t ∧ t.KeepsRunning := by
  obtain ⟨hf, hduty⟩ := hs
  rw [State.NoReservedResponse, hp, List.forall_mem_cons] at hduty
  obtain ⟨t, hexec⟩ := exec_completes (s := s.setPending rest) hf (.inl hduty.1)
  obtain ⟨hfault, hpending, -⟩ := exec_next_keeps hexec
  refine ⟨t, hexec, hfault.trans hf, ?_⟩
  rw [State.NoReservedResponse, hpending]
  exact hduty.2

/-- Each step is a next state: it waits or takes one word. -/
theorem State.KeepsRunning.step_next (hs : s.KeepsRunning) :
    ∃ t, step s = .next t ∧ t.pending = s.pending.drop 1 ∧ t.KeepsRunning := by
  cases hp : s.pending with
  | nil =>
    exact ⟨s.setOut none, (step_nil hp).trans (unlessFaulted_of_none hs.1), hp, hs⟩
  | cons w rest =>
    obtain ⟨t, hexec, ht⟩ := hs.exec_next hp
    exact ⟨t, (step_cons hp).trans hexec, (exec_next_keeps hexec).2.1, ht⟩

/-- A run whose first step completes goes on from there. -/
theorem run_succ (k : Nat) (h : step s = .next t) :
    Host.Core.run Sys2Proof.core (k + 1) s = Host.Core.run Sys2Proof.core k t := by
  have hstep : Sys2Proof.core.step s = .next t := h
  simp only [Host.Core.run, hstep]

theorem State.KeepsRunning.run_next (hs : s.KeepsRunning) (k : Nat) :
    ∃ t : State, Host.Core.run Sys2Proof.core k s = .next t ∧ t.pending = s.pending.drop k ∧ t.fault = .none := by
  induction k generalizing s with
  | zero => exact ⟨s, rfl, rfl, hs.1⟩
  | succ k ih =>
    obtain ⟨u, hstep, hpending, hu⟩ := hs.step_next
    obtain ⟨t, hrun, hdrop, hf⟩ := ih hu
    refine ⟨t, (run_succ k hstep).trans hrun, ?_, hf⟩
    rw [hdrop, hpending, List.drop_drop, Nat.add_comm]

/-- Settles O60: no step stops and no word is left over, since every step keeps `State.KeepsRunning`. -/
theorem blockNeverStopsUnderTheTransportsDuty : Obligations.BlockNeverStopsUnderTheTransportsDuty :=
  fun s hf hduty => ⟨State.KeepsRunning.run_next ⟨hf, hduty⟩,
    trace_completes (fun _ _ _ hs hp => State.KeepsRunning.exec_next hs hp) s ⟨hf, hduty⟩⟩

end Sys2Proof.Machine
end

section
/-! Fires over a press: none from a DISARMED gate before a TICK.REL, and a fire, a release and a fire (40_gate.md R111
to R113). -/

namespace Sys2Proof.Machine

variable {i : Instr} {s t u : State} {w : TxnWord} {ws rest : List TxnWord}

/-- A run from a DISARMED gate without a TICK.REL never fires. -/
theorem fires_eq_zero_of_disarmed (k : Nat) (hr : u.ready = false) (h : ∀ w ∈ ws, decode w ≠ .tickRel) :
    fires (trace k (u.setPending ws)) = 0 := by
  have hle := fires_trace_le_ready k (u.setPending ws) fun w hw => h w (List.mem_of_mem_take hw)
  rw [State.setPending_ready, hr] at hle
  exact Nat.le_zero.1 hle

/-- Settles O56: power-on and RESET leave the gate DISARMED. -/
theorem pressHeldThroughResetDoesNotFire : Obligations.PressHeldThroughResetDoesNotFire := by
  refine fun s u ws k hu h => fires_eq_zero_of_disarmed k ?_ h
  obtain rfl | hexec := hu
  · exact State.reset_ready
  · exact ready_after_reset hexec

/-- A DISARMED, unfaulted block with pressed samples only to come. -/
def State.LineStaysLow (s : State) : Prop :=
  s.fault = .none ∧ s.ready = false ∧ ∀ w ∈ s.pending, (decode w).isPress = true

/-- The next pressed sample completes and changes nothing, whatever its response. -/
theorem State.LineStaysLow.exec_next (hs : s.LineStaysLow) (hp : s.pending = w :: rest) :
    ∃ t, exec (decode w) (s.setPending rest) = .next t ∧ t.LineStaysLow := by
  obtain ⟨hf, hr, hpress⟩ := hs
  rw [hp, List.forall_mem_cons] at hpress
  exact ⟨_, exec_press_of_disarmed (s := s.setPending rest) hpress.1 hf hr, hf, hr, hpress.2⟩

theorem ne_tickRel_of_isPress (h : i.isPress = true) : i ≠ .tickRel := by
  rintro rfl
  cases h

/-- Settles O57: the sample leaves the gate DISARMED, and each further one completes and leaves it so. -/
theorem noFireWhileTheLineStaysLow : Obligations.NoFireWhileTheLineStaysLow := by
  intro i s u ws hi hexec hpress
  have hr : u.ready = false := ready_after_press hexec hi
  have hf : u.fault = .none := (exec_next_keeps hexec).1.trans (exec_next_cases hexec).1
  have hall := trace_completes (fun _ _ _ hs hp => State.LineStaysLow.exec_next hs hp) (u.setPending ws)
    ⟨hf, hr, hpress⟩
  refine ⟨hr, fires_eq_zero_of_disarmed _ hr fun w hw => ne_tickRel_of_isPress (hpress w hw), ?_⟩
  simpa using congrArg List.length hall

/-- The fires of a run: that of the first transaction, and those after it. -/
theorem fires_trace_succ (k : Nat) {o : Output} (hp : s.pending = w :: rest) (h : step s = .next t)
    (ho : t.out = some o) : fires (trace (k + 1) s) = o.rdReq.toNat + fires (trace k t) := by
  rw [trace_succ k h, takenIn_cons hp ho, List.singleton_append, fires_cons]

/-- A press of an ARMED gate is one fire of the run, unless its response is reserved. -/
theorem fires_trace_press (k : Nat) (hp : s.pending = w :: rest) (hf : s.fault = .none) (hr : s.ready = true)
    (hi : (decode w).isPress = true) (hne : decode w ≠ .tickPrsRsv) :
    ∃ t, t.pending = rest ∧ t.fault = .none ∧ fires (trace (k + 1) s) = 1 + fires (trace k t) := by
  obtain ⟨o, ho, hexec⟩ := exec_press_fires (s := s.setPending rest) hi hne hf hr
  refine ⟨(s.setPending rest).disarm.setOut (some o), rfl, hf,
    (fires_trace_succ k hp ((step_cons hp).trans hexec) rfl).trans ?_⟩
  rw [ho]
  rfl

/-- A TICK.REL arms the gate and is no fire of the run. -/
theorem fires_trace_tickRel (k : Nat) (hp : s.pending = w :: rest) (hf : s.fault = .none) (hw : decode w = .tickRel) :
    ∃ t, t.pending = rest ∧ t.fault = .none ∧ t.ready = true ∧ fires (trace (k + 1) s) = fires (trace k t) := by
  have hexec : exec (decode w) (s.setPending rest) = complete (s.setPending rest).arm .zero := by
    rw [hw]
    exact exec_tickRel_of_unfaulted hf
  exact ⟨(s.setPending rest).arm.setOut (some .zero), rfl, hf, rfl,
    (fires_trace_succ k hp ((step_cons hp).trans hexec) rfl).trans (Nat.zero_add _)⟩

/-- Settles O58: a fire, the release that arms the gate again, and a fire. -/
theorem oneReleasedSampleRearms : Obligations.OneReleasedSampleRearms := by
  intro s w1 w2 w3 rest hp hf hr hi1 hne1 hw2 hi3 hne3
  obtain ⟨s1, hp1, hf1, hfire1⟩ := fires_trace_press 2 hp hf hr hi1 hne1
  obtain ⟨s2, hp2, hf2, hr2, hrel⟩ := fires_trace_tickRel 1 hp1 hf1 hw2
  obtain ⟨s3, -, -, hfire3⟩ := fires_trace_press 0 hp2 hf2 hr2 hi3 hne3
  rw [hfire1, hrel, hfire3]
  rfl

end Sys2Proof.Machine
end

section
/-! The output record read back from its 24 bits (30_encoding.md R66), and what a transaction shows and leaves unchanged
(10_state.md sections 2 and 3). -/

namespace Sys2Proof.Machine

/-- The bits that encode no kind (30_encoding.md R67). -/
theorem Kind.ofBits_eq_none_iff (b : BitVec 2) : Kind.ofBits b = Option.none ↔ b = 0b11#2 := by
  revert b
  decide

theorem Output.unpack_pack (o : Output) : Output.unpack o.pack = some o := by
  rw [Output.unpack, Output.pack_kind, (Kind.ofBits_eq_some _ _).2 rfl, Option.map_some, Output.pack_rdReq,
    Output.pack_err, Output.pack_index, Output.pack_count, Output.pack_mask]

theorem Output.pack_of_unpack {w : BitVec 24} {o : Output} (h : Output.unpack w = some o) : o.pack = w := by
  obtain ⟨k, hk, rfl⟩ := Option.map_eq_some_iff.1 h
  rw [Output.pack, (Kind.ofBits_eq_some _ k).1 hk]
  exact (recordWord_eq_fields w).symm

/-- Settles O10: packing and reading back are inverse to each other, and only the kind's bits can be refused. -/
theorem outputRecordRoundTrip : Obligations.OutputRecordRoundTrip := by
  refine fun w => ⟨fun o => ⟨Output.pack_of_unpack, ?_⟩, ?_⟩
  · rintro rfl
    exact o.unpack_pack
  · rw [Output.unpack, Option.map_eq_none_iff, Kind.ofBits_eq_none_iff]

/-- Settles O27: `RD_REQ` says whether the gate fired, and R67 gives the record of a transaction that did not. -/
theorem readyIsSeenOnlyThroughFires : Obligations.ReadyIsSeenOnlyThroughFires := by
  intro i s t h
  obtain ⟨-, -, o, ho⟩ := exec_next_keeps h
  refine ⟨o, ho, (rdReq_iff_fires h ho).trans and_comm, fun hno => ?_⟩
  obtain ⟨hzero, -⟩ := outputFieldsThatDoNotApplyAreZero i s t o h ho
  refine hzero ?_
  rwa [not_and_or, Bool.not_eq_true, Bool.not_eq_true] at hno

/-- Settles O28: of the four ways to complete, three write `READY`, and a class whose answer has a record is not the
reserved one. -/
theorem transactionFrame : Obligations.TransactionFrame := by
  intro i s t h
  obtain ⟨hfault, hpending, -⟩ := exec_next_keeps h
  refine ⟨hfault, hpending, fun hchanged => ?_⟩
  obtain ⟨-, ⟨hi, rfl⟩ | ⟨hi, rfl⟩ | ⟨-, -, rfl⟩ | ⟨-, a, o, hi, ha, ho, rfl⟩⟩ := exec_next_cases h
  · exact .inr (.inl ⟨hi, rfl⟩)
  · exact .inl ⟨hi, rfl⟩
  · exact absurd rfl hchanged
  · refine .inr (.inr ⟨hi, ?_, rfl⟩)
    rintro rfl
    cases ha
    cases ho

end Sys2Proof.Machine
end

section
/-! The tables and the translator: what the open form ranges over (00_scope.md R12), the count of the matches
(41_translator.md R130), and the source's scenarios (95_test_vectors.md V-S1, V-S2). -/

namespace Sys2Proof.Machine

variable {tables : Tables}

/-- The set bits of a KeyMask are the matching indices. -/
theorem numSetBits_translateRaw (tables : Tables) (raw : RawReading) :
    numSetBits (translateRaw tables raw) =
      (Finset.univ.filter fun i : Key => remap tables raw &&& tables.keyvals i ≠ 0).card := by
  rw [numSetBits]
  exact congrArg Finset.card (Finset.filter_congr fun i _ => matchKeys_getLsbD_iff tables _ i)

/-- Settles O41: a one-hot code is remapped to its entry, which `WF_ONEHOT` lets match one index only. -/
theorem setBitsCountTheMatches : Obligations.SetBitsCountTheMatches := by
  refine ⟨fun tables hwf k => ?_, numSetBits_translateRaw⟩
  obtain ⟨i, hi, honly⟩ := hwf k
  rw [numSetBits_translateRaw, remap_oneHot, Finset.card_eq_one]
  refine ⟨i, Finset.ext fun j => ?_⟩
  rw [Finset.mem_filter_univ, Finset.mem_singleton]
  exact ⟨honly j, fun hj => hj ▸ hi⟩

/-- An entry in which a bit is set is unchanged by setting it. -/
theorem or_bit9_eq_self {v : BitVec 16} (h : v &&& 0x0200#16 ≠ 0) : v ||| 0x0200#16 = v := by
  have hmask : 0x0200#16 = BitVec.twoPow 16 9 := by decide
  have hbit : v.getLsbD 9 = true := by
    by_contra hclear
    exact h ((BitVec.and_twoPow v 9).trans (if_neg hclear))
  refine BitVec.eq_of_getLsbD_eq fun j _ => ?_
  rw [hmask, BitVec.getLsbD_or, BitVec.getLsbD_twoPow]
  by_cases hj : 9 = j
  · subst hj
    simp [hbit]
  · simp [hj]

/-- An entry in which a bit is clear is unchanged by clearing it. -/
theorem and_not_bit9_eq_self {v : BitVec 16} (h : v &&& 0x0200#16 = 0) : v &&& ~~~0x0200#16 = v := by
  calc v &&& ~~~0x0200#16 = (v &&& 0x0200#16) ||| (v &&& ~~~0x0200#16) := by rw [h]; exact BitVec.zero_or.symm
    _ = v &&& (0x0200#16 ||| ~~~0x0200#16) := (BitVec.and_or_distrib_left).symm
    _ = v := by rw [show 0x0200#16 ||| ~~~0x0200#16 = BitVec.allOnes 16 by decide, BitVec.and_allOnes]

/-- Tables that meet R12 are built of their own entries. -/
theorem ofFree_eq_self (h : tables.MeetsR12) : Tables.ofFree tables.onehotMap tables.keyvals = tables := by
  obtain ⟨hremap, hone, hother⟩ := h
  have honehot : (Tables.ofFree tables.onehotMap tables.keyvals).onehotMap = tables.onehotMap := by
    funext k
    by_cases hk : k = 2
    · rw [hk, Tables.ofFree_onehotMap_two, hremap]
    · exact if_neg hk
  have hkeyvals : (Tables.ofFree tables.onehotMap tables.keyvals).keyvals = tables.keyvals := by
    funext i
    by_cases hi : i = 1
    · rw [hi]
      exact or_bit9_eq_self hone
    · exact (if_neg hi).trans (and_not_bit9_eq_self (hother i hi))
  calc Tables.ofFree tables.onehotMap tables.keyvals
      = ⟨(Tables.ofFree tables.onehotMap tables.keyvals).onehotMap,
          (Tables.ofFree tables.onehotMap tables.keyvals).keyvals⟩ := rfl
    _ = tables := by rw [honehot, hkeyvals]

/-- Settles O44: free entries always give tables that meet R12, and tables that meet it are built of their own. -/
theorem openTablesAreExactlyTheAllowedOnes : Obligations.OpenTablesAreExactlyTheAllowedOnes := by
  refine fun t => ⟨fun h => ⟨_, _, ofFree_eq_self h⟩, ?_⟩
  rintro ⟨f, g, rfl⟩
  exact Tables.ofFree_meetsR12 f g

/-- Settles O45: each constraint and premise over the twelve keys. -/
theorem referenceTablesMeetThePremises : Obligations.ReferenceTablesMeetThePremises := by
  unfold Obligations.ReferenceTablesMeetThePremises
  decide

/-- Settles O46: the reading 4 is key 1 alone, and the reading 0 matches no key. -/
theorem sourceScenariosHoldInEveryConfiguration : Obligations.SourceScenariosHoldInEveryConfiguration := by
  intro tables h
  have hremap : remap tables 0x0004#16 = 0x0200#16 := (remap_oneHot tables 2).trans h.1
  refine ⟨hremap, translateRaw_four h, ?_, okRecord_four_pack h, ?_⟩
  · rw [translateRaw_four h]
    decide
  · rw [okRecord_of_empty (translateOfZeroIsEmpty tables)]
    decide

end Sys2Proof.Machine
end

section
/-! The spec's listed words (95_test_vectors.md section 2), the step by its decoded word, the waiting step, and the byte
order of a reading (20_memory.md R44). -/

namespace Sys2Proof.Machine

/-- Settles O1: each listed word by evaluating the decoder. -/
theorem specWordsDecodeAsListed : Obligations.SpecWordsDecodeAsListed := by
  unfold Obligations.SpecWordsDecodeAsListed
  decide

/-- Settles O21: `step_cons`. -/
theorem stepRunsTheDecodedTransaction : Obligations.StepRunsTheDecodedTransaction := fun _ _ _ => step_cons

/-- Settles O23: an unfaulted block waits, and shows nothing. -/
theorem blockWaitsForATransaction : Obligations.BlockWaitsForATransaction := by
  intro s hp hf
  rw [step_nil hp, waitForTransaction, unlessFaulted_of_none hf, ← hp]
  rfl

/-- Settles O31: the second byte stands above the first. -/
theorem rawReadingIsLittleEndian : Obligations.RawReadingIsLittleEndian :=
  fun _ _ => ⟨BitVec.extractLsb'_append_eq_right, BitVec.extractLsb'_append_eq_left⟩

end Sys2Proof.Machine
end

section
/-! The operand check of the assembler (30_encoding.md R70). -/

namespace Sys2Proof.Machine

variable {op : AsmOp}

theorem expandLine_without_operand (h : op.operandRule = .refused) :
    expandLine ⟨op, none⟩ = .ok (expansion op 0) := by
  simp [expandLine, AsmLine.refusal, h]

theorem expandLine_with_refused_operand (h : op.operandRule = .refused) (n : Nat) :
    expandLine ⟨op, some n⟩ = .error .unexpectedOperand := by
  simp [expandLine, AsmLine.refusal, h]

/-- Settles O7: TICK.PRS.OK's operand is a `<data16>`, and the five other mnemonics take none. -/
theorem assemblerChecksTheOperand : Obligations.AssemblerChecksTheOperand := by
  refine ⟨fun n hn => expandLine_of_wellFormed (wellFormed_of_data16 rfl hn), fun n hn => ?_, rfl, ?_⟩
  · simp [expandLine, AsmLine.refusal, AsmOp.operandRule, Nat.not_lt.2 hn]
  · simp only [List.forall_mem_cons, List.not_mem_nil, false_imp_iff, implies_true, and_true]
    exact ⟨⟨rfl, expandLine_with_refused_operand rfl⟩, ⟨rfl, expandLine_with_refused_operand rfl⟩,
      ⟨rfl, expandLine_with_refused_operand rfl⟩, ⟨rfl, expandLine_with_refused_operand rfl⟩,
      rfl, expandLine_with_refused_operand rfl⟩

end Sys2Proof.Machine
end

section
/-! The disassembler's text (30_encoding.md section 5): its digits, and the line that it assembles to. -/

namespace Sys2Proof.Machine

variable {i : Instr} {w : TxnWord}

/-- The hexadecimal digits, in their own order. -/
theorem some_hexDigit : ∀ d < 16, some (hexDigit d) = "0123456789ABCDEF".toList[d]? := by
  decide

/-- The digits written of a word are its groups of four bits, the highest first. -/
theorem hexDigits_toNat_getElem? {n : Nat} (x : BitVec n) {k j : Nat} (h : j < k) :
    (hexDigits k x.toNat [])[j]? = "0123456789ABCDEF".toList[(x.extractLsb' (4 * (k - 1) - 4 * j) 4).toNat]? := by
  have hpow : 16 ^ (k - 1 - j) = 2 ^ (4 * (k - 1) - 4 * j) := by
    rw [← Nat.mul_sub, Nat.pow_mul]
  rw [hexDigits_getElem? k _ j h, some_hexDigit _ (Nat.mod_lt _ (by decide)), BitVec.extractLsb'_toNat,
    Nat.shiftRight_eq_div_pow, hpow]

/-- No letter of a name separates words or starts a comment. -/
theorem opName_plain (op : AsmOp) : ∀ c ∈ opName op, isSeparator c = false ∧ c ≠ ';' := by
  cases op <;> simp [opName, isSeparator]

/-- DATA's `0x` and digits neither separate words nor start a comment. -/
theorem data_plain (d : RawReading) :
    ∀ c ∈ '0' :: 'x' :: hexDigits 4 d.toNat [], isSeparator c = false ∧ c ≠ ';' := by
  rw [List.forall_mem_cons, List.forall_mem_cons]
  exact ⟨by decide, by decide, hexDigits_plain 4 _⟩

/-- No text of a transaction starts a comment. -/
theorem ne_semicolon_of_mem_instrText : ∀ c ∈ instrText i, c ≠ ';' := by
  cases i with
  | tickPrsOk d =>
    rw [instrText, List.forall_mem_append, List.forall_mem_cons]
    exact ⟨fun c hc => (opName_plain _ c hc).2, by decide, fun c hc => (data_plain d c hc).2⟩
  | _ =>
    rw [instrText]
    exact fun c hc => (opName_plain _ c hc).2

/-- A text without a `;` is part of the line, whatever follows it. -/
theorem withoutComment_append {cs : List Char} (h : ∀ c ∈ cs, c ≠ ';') (ds : List Char) :
    withoutComment (cs ++ ds) = cs ++ withoutComment ds :=
  List.takeWhile_append_of_pos fun c hc => decide_eq_true (h c hc)

/-- Of a word's text, the comment's `;` and what follows it is left out, and the space before it stays. -/
theorem withoutComment_wordText (w : TxnWord) :
    withoutComment (wordText w) = instrText (decode w) ∨
      withoutComment (wordText w) = instrText (decode w) ++ [' '] := by
  by_cases h : w = encode (decode w)
  · have hend := withoutComment_append (ne_semicolon_of_mem_instrText (i := decode w)) []
    rw [List.append_nil] at hend
    rw [wordText_of_canonical h]
    exact .inl (hend.trans (List.append_nil _))
  · rw [wordText_of_not_canonical h]
    exact .inr (withoutComment_append ne_semicolon_of_mem_instrText _)

/-- A space at the end of a text begins no word. -/
theorem wordsFrom_append_space (word cs : List Char) : wordsFrom word (cs ++ [' ']) = wordsFrom word cs := by
  induction cs generalizing word with
  | nil =>
    cases word with
    | nil => rfl
    | cons c word => simp [wordsFrom, isSeparator]
  | cons c cs ih => rw [List.cons_append, wordsFrom, wordsFrom, ih, ih]

/-- The words of a line: those of its class's text, with or without a comment. -/
theorem wordsFrom_wordText (w : TxnWord) :
    wordsFrom [] (withoutComment (wordText w)) = wordsFrom [] (instrText (decode w)) := by
  obtain h | h := withoutComment_wordText w
  · rw [h]
  · rw [h, wordsFrom_append_space]

/-- A mnemonic alone is a line of one word. -/
theorem parseLine_of_mnemonic {line : List Char} {op : AsmOp} (h : wordsFrom [] (withoutComment line) = [opName op])
    (hop : op.operandRule = .refused) : parseLine line = .ok (expansion op 0) := by
  have hread : readOp (opName op) = some op := by cases op <;> decide
  simp only [parseLine, h, hread]
  exact expandLine_without_operand hop

/-- The operand of TICK.PRS.OK is read as the number that its digits write. -/
theorem readNumber_hexDigits (n : Nat) : readNumber ('0' :: 'x' :: hexDigits 4 n []) = some (n % 16 ^ 4) := by
  have hdigits := readDigits_hexDigits 4 n 0
  rw [Nat.zero_mul, Nat.zero_add] at hdigits
  cases hcs : hexDigits 4 n [] with
  | nil => simpa [hcs] using hexDigits_length 4 n
  | cons c cs =>
    rw [hcs] at hdigits
    exact hdigits

/-- The text of a TICK.PRS.OK is two words, the mnemonic and `DATA`. -/
theorem wordsFrom_tickPrsOk (d : RawReading) :
    wordsFrom [] (instrText (.tickPrsOk d)) = [opName .tickPrsOk, '0' :: 'x' :: hexDigits 4 d.toNat []] := by
  have hname : ∀ c ∈ opName .tickPrsOk, isSeparator c = false := fun c hc => (opName_plain _ c hc).1
  have hdata : ∀ c ∈ '0' :: 'x' :: hexDigits 4 d.toNat [], isSeparator c = false := fun c hc =>
    (data_plain d c hc).1
  rw [instrText, wordsFrom_space _ _ _ hname (by decide), wordsFrom_of_plain _ _ hdata]
  rfl

theorem parseLine_of_tickPrsOk {line : List Char} {d : RawReading}
    (h : wordsFrom [] (withoutComment line) = wordsFrom [] (instrText (.tickPrsOk d))) :
    parseLine line = .ok [.tickPrsOk d] := by
  have hlt : d.toNat < 16 ^ 4 := d.isLt
  have hnum : readNumber ('0' :: 'x' :: hexDigits 4 d.toNat []) = some d.toNat := by
    rw [readNumber_hexDigits, Nat.mod_eq_of_lt hlt]
  have hread : readOp (opName .tickPrsOk) = some .tickPrsOk := by decide
  simp only [parseLine, h, wordsFrom_tickPrsOk, hread, hnum]
  rw [expandLine_of_wellFormed (wellFormed_of_data16 rfl hlt), expansion, BitVec.ofNat_toNat, BitVec.setWidth_eq]

/-- A line with the words of an instruction's text stands for that instruction. -/
theorem parseLine_of_instrText {line : List Char}
    (h : wordsFrom [] (withoutComment line) = wordsFrom [] (instrText i)) : parseLine line = .ok [i] := by
  cases i with
  | reset => exact parseLine_of_mnemonic (op := .reset) h rfl
  | tickRel => exact parseLine_of_mnemonic (op := .tickRel) h rfl
  | tickPrsOk d => exact parseLine_of_tickPrsOk h
  | tickPrsFail => exact parseLine_of_mnemonic (op := .tickPrsFail) h rfl
  | tickPrsBusy => exact parseLine_of_mnemonic (op := .tickPrsBusy) h rfl
  | tickPrsRsv => exact parseLine_of_mnemonic (op := .tickPrsRsv) h rfl

/-- Settles O8: the digits of DATA and of a raw word, and the line read back by its words. -/
theorem disassembledTextAssemblesBack : Obligations.DisassembledTextAssemblesBack := by
  refine ⟨rfl, rfl, fun d => ?_, rfl, rfl, rfl, fun w => ⟨wordText_of_canonical, fun h => ?_,
    parseLine_of_instrText (wordsFrom_wordText w)⟩⟩
  · exact ⟨_, hexDigits_length 4 d.toNat, fun j => hexDigits_toNat_getElem? d, rfl⟩
  · refine ⟨_, hexDigits_length 5 w.toNat, fun j => hexDigits_toNat_getElem? w, ?_⟩
    rw [wordText_of_not_canonical h, List.append_assoc]
    rfl

end Sys2Proof.Machine
end
